-- ==== Sys2Proof/Word.lean ====
section
/-! DEFINITION. The word types of the block: the 16-bit command word (R100), the 8-bit segment mask and character code
(R32, R18) and the 3-bit digit position (R70). -/

namespace Sys2Proof

/-- A command word, w[15:0] (R100). -/
abbrev Word := BitVec 16

/-- A u8: a segment mask (R32) or a character code (R18). -/
abbrev Byte := BitVec 8

/-- A u3: a digit position 0..7, which is also an address of the Display Buffer (R70). -/
abbrev Slot := BitVec 3

/-- The eight digit positions in ascending order. -/
def slots : List Slot := [0, 1, 2, 3, 4, 5, 6, 7]

end Sys2Proof
end

