-- ==== Sys2Proof/Config.lean ====
section
/-! DEFINITION. The implementation parameters of R12: the values the source settles as constants, the OPEN ones as the
fields of one record of plain data, and the model's free values (opaque constants with no body). -/

namespace Sys2Proof

/-- Which animation generator MAIN runs (R12 ANIMATION, R247). -/
inductive Animation
  | scroll
  | wave
deriving DecidableEq, Repr, Inhabited

/-- Which agent is offered the next step. HOST and SCAN are never both enabled (R289), so the only open choice is
between TONE and whichever of HOST and SCAN is enabled. -/
inductive Turn
  | hostOrScan
  | tone
deriving DecidableEq, Repr, Inhabited

/-! The parameters that R12 marks "source". -/

/-- N_DIGITS (R12). -/
def nDigits : Nat := 8
/-- SEG_BITS (R12). -/
def segBits : Nat := 8
/-- DIG_GROUP_A (R12): the positions on digit-select group A. -/
def digGroupA : List Nat := [0, 1, 2, 3, 4, 5]
/-- DIG_GROUP_B (R12). -/
def digGroupB : List Nat := [6, 7]
/-- SEG_GROUP_X (R12): the mask bits on segment group X. -/
def segGroupX : List Nat := [0, 1]
/-- SEG_GROUP_Y (R12). -/
def segGroupY : List Nat := [2, 3, 4, 5, 6, 7]
/-- SEG_ACTIVE_LOW (R12, 90_conflicts C1). -/
def segActiveLow : Bool := true
/-- NOTE_COUNT (R12). -/
def noteCount : Nat := 32
/-- TICKS_PER_NOTE (R12). -/
def ticksPerNote : Nat := 3
/-- OCTAVE_DIV (R12): 384 = 48 * 8. -/
def octaveDiv : Nat := 48 * 8
/-- T_MOD (R12, D14). -/
def tMod : Nat := 768
/-- SCROLL_N (R12). -/
def scrollN : Nat := 50
/-- WAVE_K (R12). -/
def waveK : Nat := 10
/-- FRAME_LIMIT (R12), in microseconds: the flicker limit of "~16 ms". Timing only; no step reads it (R331). -/
def frameLimitUs : Nat := 16000

/-- The configuration record of R12: its OPEN fields. Raw data; `Config.wf` (WellFormed.lean) is R13. -/
structure Config where
  /-- PIN_MAP: the (port, bit) of each logical line, numbered as `Machine.lineIndex` numbers them (R78). -/
  pinMap : Vector (Nat × Nat) 17
  /-- DIG_ACTIVE_HIGH (R160). -/
  digActiveHigh : Bool
  /-- NOTE_TABLE: 32 frequencies in Hz (R45). -/
  noteTable : Vector Nat 32
  /-- CLOCK_RATE (R200). -/
  clockRate : Nat
  /-- CMP_WIDTH, 1 to 32 (R44). -/
  cmpWidth : Nat
  /-- FONT: the 28 drawn glyphs, in the order of `Machine.glyphSymbols` (R235). -/
  font : Vector Byte 28
  /-- REMAP_FROM, 0 to 7 (R236). -/
  remapFrom : Nat
  /-- MSG, the scroll message, of length L (R242). -/
  msg : List Byte
  /-- ANIMATION (R247). -/
  animation : Animation
  /-- DWELL in microseconds ("about 1 ms"). Timing only; no step reads it (R156). -/
  dwellUs : Nat
  /-- TICK_HZ (4 in the reference configuration). Timing only; no step reads it (R194). -/
  tickHz : Nat
deriving DecidableEq, Repr

/-- L, the length of MSG (R12). -/
def Config.msgLength (cfg : Config) : Nat := cfg.msg.length

/-- The frame period of R331 without the end-of-frame step and the host's time: 8 dwells, in microseconds. -/
def Config.framePeriodUs (cfg : Config) : Nat := nDigits * cfg.dwellUs

/-- R331's refresh bound: the frame period stays under about 16 ms. Timing: no step depends on it. -/
def Config.flickerFree (cfg : Config) : Bool := decide (cfg.framePeriodUs < frameLimitUs)

/-- The duration of n ticks in milliseconds (R334). Timing: no step depends on it. -/
def Config.ticksMs (cfg : Config) (n : Nat) : Nat := n * 1000 / cfg.tickHz

/-! The free values. None has a body, so nothing in Lean can evaluate one, and a theorem about one holds for every value. -/

/-- FREE VALUE (log 2). Which agent is offered the step after step n, while the tick is enabled. R194: "The untimed
model lets the TONE agent step between any two steps of the other agents"; R289: "the order between a TONE step and the
other step is free". -/
opaque Config.freeTurn : Nat → Turn

/-- FREE VALUE (log 12). Whether the driven audio line is HIGH at observation k of the state numbered n. R204: the level
"is a draw, LOW or HIGH". -/
opaque Config.freeAudioHigh : Nat → Nat → Bool

end Sys2Proof
end

