-- ==== Sys2Proof/Machine/Compare.lean ====
section
/-! DEFINITION. The tone sequencer's arithmetic on naturals and exact rationals (R196 to R200). It stands before the
state because the well-formedness of a configuration (R13) is stated with it. -/

namespace Sys2Proof.Machine

/-- The note index n = (t div 3) mod 32 (R196). -/
def noteIndex (t : Nat) : Fin 32 := ⟨t / ticksPerNote % noteCount, Nat.mod_lt _ (by decide)⟩

/-- The octave bit k = ((t div 384) + 1) mod 2 (R198). -/
def octaveBit (t : Nat) : Nat := (t / octaveDiv + 1) % 2

/-- The octave factor k + 1/2, an exact rational (R198). -/
def octaveFactor (k : Nat) : ℚ := k + 1 / 2

/-- The target frequency f = f0 * (k + 1/2) in Hz (R199). -/
def targetFrequency (f0 k : Nat) : ℚ := f0 * octaveFactor k

/-- The compare value c = floor((2 * CLOCK_RATE) / (f0 * (2k + 1))), exact (R200). -/
def compareValue (clockRate f0 k : Nat) : Nat := 2 * clockRate / (f0 * (2 * k + 1))

/-- f0 = NOTE_TABLE[n] for the note of tick t (R197). -/
def noteFrequency (cfg : Config) (t : Nat) : Nat := cfg.noteTable[noteIndex t]

/-- The compare value that a tick which reads T = t programs (R195). -/
def compareAt (cfg : Config) (t : Nat) : Nat := compareValue cfg.clockRate (noteFrequency cfg t) (octaveBit t)

/-- The value T takes after a tick that reads t: (t + 1) mod 768 (R195, R43). -/
def nextTick (t : Nat) : Nat := (t + 1) % tMod

end Sys2Proof.Machine
end

