-- ==== Sys2Proof/Syntax.lean ====
section
/-! DEFINITION. The six commands of opcode_table.json, and the assembler's source commands (R108) with the
pseudo-instructions (R109). -/

namespace Sys2Proof

/-- A decoded command, one constructor per row of opcode_table.json (R103). -/
inductive Instr
  /-- NOP (R147). -/
  | nop
  /-- INIT (R142). -/
  | init
  /-- WRBUF SLOT, MASK (R144). -/
  | wrbuf (slot : Slot) (mask : Byte)
  /-- RDBUF SLOT (R146). -/
  | rdbuf (slot : Slot)
  /-- SCAN (R150). -/
  | scan
  /-- TONE_START (R192). -/
  | toneStart
deriving DecidableEq, Repr

/-- A line of assembler source (R108) or a pseudo-instruction (R109), its numbers as they were written. -/
inductive Asm
  | nop
  | init
  | wrbuf (slot mask : Nat)
  | rdbuf (slot : Nat)
  | scan
  | toneStart
  /-- PUTC <pos>, <char>. -/
  | putc (pos : Nat) (ch : Byte)
  /-- PUTS <start>, "<text>". -/
  | puts (start : Nat) (text : List Byte)
  /-- CLEAR. -/
  | clear
deriving DecidableEq, Repr

end Sys2Proof
end

