-- ==== Sys2Proof/WellFormed.lean ====
section
/-! DEFINITION. What is checked before the machine sees it: the operands of an assembler line (R108) and the configuration
(R12, R13). A configuration is paired with its check once (`WfConfig`); `Config.board` is the one the machine runs under. -/

namespace Sys2Proof

/-! Assembler lines. The fields of `Instr` have exactly the encoding's widths, so every `Instr` is well-formed. -/

/-- R108: "a slot outside 0..7 ... is an assembly error". -/
def slotInRange (slot : Nat) : Bool := decide (slot < nDigits)

/-- R108: "a mask outside 0..255 is an assembly error". -/
def maskInRange (mask : Nat) : Bool := decide (mask < 2 ^ segBits)

/-- The operands of an assembler line are in range (R108). A render position is any natural (R236), so PUTC and PUTS are
never ill-formed. -/
def Asm.wf : Asm → Bool
  | .nop => true
  | .init => true
  | .wrbuf slot mask => slotInRange slot && maskInRange mask
  | .rdbuf slot => slotInRange slot
  | .scan => true
  | .toneStart => true
  | .putc _ _ => true
  | .puts _ _ => true
  | .clear => true

/-! Configurations. -/

/-- R13: PIN_MAP is injective. -/
def Config.pinMapInjective (cfg : Config) : Bool := decide cfg.pinMap.toList.Nodup

/-- R13: REMAP_FROM is in 0..7. -/
def Config.remapInRange (cfg : Config) : Bool := decide (cfg.remapFrom ≤ 7)

/-- R13: L >= 1. -/
def Config.msgNonempty (cfg : Config) : Bool := decide (1 ≤ cfg.msgLength)

/-- R13: every NOTE_TABLE entry is at least 1. -/
def Config.notesPositive (cfg : Config) : Bool := cfg.noteTable.toList.all fun f0 => decide (1 ≤ f0)

/-- R12: CLOCK_RATE is a positive integer. -/
def Config.clockPositive (cfg : Config) : Bool := decide (1 ≤ cfg.clockRate)

/-- R12: CMP_WIDTH is in 1..32. -/
def Config.cmpWidthInRange (cfg : Config) : Bool := decide (1 ≤ cfg.cmpWidth) && decide (cfg.cmpWidth ≤ 32)

/-- R13: every compare value that R200 can produce lies in 1 .. 2^CMP_WIDTH - 1, for either octave bit. -/
def Config.comparesFit (cfg : Config) : Bool :=
  cfg.noteTable.toList.all fun f0 =>
    [0, 1].all fun k =>
      decide (1 ≤ Machine.compareValue cfg.clockRate f0 k) &&
        decide (Machine.compareValue cfg.clockRate f0 k < 2 ^ cfg.cmpWidth)

/-- A configuration is well-formed (R13, with the ranges of R12's types). -/
def Config.wf (cfg : Config) : Bool :=
  cfg.pinMapInjective && cfg.remapInRange && cfg.msgNonempty && cfg.notesPositive && cfg.clockPositive &&
    cfg.cmpWidthInRange && cfg.comparesFit

/-- The spec's invented test configuration EX (95_test_vectors.md, "not the reference's values"). EX gives no PIN_MAP and
leaves FONT symbolic: the pins and the 28 distinct masks 0x01..0x1C here are the model's own, for tests only. It is used in
tests and as the evidence that well-formed configurations exist; no step reads it. -/
def exConfig : Config where
  pinMap := Vector.ofFn fun i => (i.val / 8, i.val % 8)
  digActiveHigh := true
  noteTable := Vector.ofFn fun i => if i.val = 1 then 494 else if i.val = 31 then 262 else 440
  clockRate := 1000000
  cmpWidth := 16
  font := Vector.ofFn fun i => BitVec.ofNat 8 (i.val + 1)
  remapFrom := 3
  msg := [0x41, 0x42, 0x43, 0x44, 0x45, 0x46, 0x47, 0x48, 0x49, 0x4A]
  animation := .wave
  dwellUs := 1000
  tickHz := 4

/-- A configuration with the proof that R13 admits it: an ill-formed one is refused, so no `WfConfig` holds it. The default
value only shows that the type is inhabited. -/
structure WfConfig where
  config : Config := exConfig
  ok : config.wf = true := by decide +kernel
deriving Inhabited, DecidableEq, Repr

/-- The configuration the machine runs under: R12's OPEN parameters. Opaque, with no body: a theorem about it holds for
every well-formed configuration (log 4). -/
opaque Config.board : WfConfig

end Sys2Proof
end

