-- ==== Sys2Proof/Decode.lean ====
section
/-! DEFINITION. The command encoding (30_encoding.md): the fields of a word, the total decoder of R104 that rejects by name,
the encoder of R108, and the opcode table of R103. -/

namespace Sys2Proof

/-- Why a word is illegal (R105). -/
inductive IllegalWord
  /-- OP is in 0x6..0xF. -/
  | reservedOpcode (op : BitVec 4)
  /-- OP is in 0x0..0x5 and a reserved bit is nonzero. -/
  | reservedBits (op : BitVec 4)
deriving DecidableEq, Repr

/-- OP = w[15:12] (R101). -/
def opField (w : Word) : BitVec 4 := w.extractLsb' 12 4

/-- SLOT = w[10:8] (R102). -/
def slotField (w : Word) : Slot := w.extractLsb' 8 3

/-- MASK = w[7:0] (R102). -/
def maskField (w : Word) : Byte := w.extractLsb' 0 8

/-- The name of the reason a word that no row matches is rejected for (R105). -/
def illegalReason (w : Word) : IllegalWord :=
  if (opField w).toNat ≤ 5 then .reservedBits (opField w) else .reservedOpcode (opField w)

/-- R104, line by line: total on all 65536 words. -/
def decode (w : Word) : Except IllegalWord Instr :=
  if w = 0x0000#16 then .ok .nop
  else if w = 0x1000#16 then .ok .init
  else if w &&& 0xF800#16 = 0x2000#16 then .ok (.wrbuf (slotField w) (maskField w))
  else if w &&& 0xF8FF#16 = 0x3000#16 then .ok (.rdbuf (slotField w))
  else if w = 0x4000#16 then .ok .scan
  else if w = 0x5000#16 then .ok .toneStart
  else .error (illegalReason w)

/-- The word of a command (R108): WRBUF s, m is 0x2000 | (s << 8) | m, RDBUF s is 0x3000 | (s << 8), and the others are
their match values in R103. -/
def encode : Instr → Word
  | .nop => 0x0000#16
  | .init => 0x1000#16
  | .wrbuf slot mask => 0x2000#16 ||| (slot.setWidth 16 <<< 8) ||| mask.setWidth 16
  | .rdbuf slot => 0x3000#16 ||| (slot.setWidth 16 <<< 8)
  | .scan => 0x4000#16
  | .toneStart => 0x5000#16

/-- A row of the opcode table: a word selects it iff (w & mask) = match (R103). -/
structure TableRow where
  mnemonic : String
  matchBits : Word
  maskBits : Word
deriving DecidableEq, Repr

/-- The opcode table of R103. -/
def opcodeTable : List TableRow :=
  [⟨"NOP", 0x0000, 0xFFFF⟩, ⟨"INIT", 0x1000, 0xFFFF⟩, ⟨"WRBUF", 0x2000, 0xF800⟩, ⟨"RDBUF", 0x3000, 0xF8FF⟩,
    ⟨"SCAN", 0x4000, 0xFFFF⟩, ⟨"TONE_START", 0x5000, 0xFFFF⟩]

/-- R103: a word selects a row iff (w & mask) = match. -/
def selectsRow (w : Word) (r : TableRow) : Bool := decide (w &&& r.maskBits = r.matchBits)

/-- The opcode-table row a command belongs to (R103). -/
def rowOf : Instr → TableRow
  | .nop => ⟨"NOP", 0x0000, 0xFFFF⟩
  | .init => ⟨"INIT", 0x1000, 0xFFFF⟩
  | .wrbuf _ _ => ⟨"WRBUF", 0x2000, 0xF800⟩
  | .rdbuf _ => ⟨"RDBUF", 0x3000, 0xF8FF⟩
  | .scan => ⟨"SCAN", 0x4000, 0xFFFF⟩
  | .toneStart => ⟨"TONE_START", 0x5000, 0xFFFF⟩

/-- Does the word decode to a command (R106's "legal")? -/
def isLegal (w : Word) : Bool :=
  match decode w with
  | .ok _ => true
  | .error _ => false

/-- The word whose bits are those of `w` below bit `nbits`, numbered as opcode_table.json numbers them, and 0 above. A
command is one 16-bit word delivered as a unit, so no byte order applies (R73, R100). -/
def tableWord (nbits w : Nat) : Word := BitVec.ofNat 16 (w % 2 ^ nbits)

/-- What the decoder reads from an instruction whose bits are `w`, as opcode_table.json numbers them. -/
def decodeTableWord (nbits w : Nat) : Option Instr :=
  match decode (tableWord nbits w) with
  | .ok i => some i
  | .error _ => none

end Sys2Proof
end

