-- ==== Sys2Proof/Machine/State.lean ====
section
/-! DEFINITION. The machine's state as plain data (10_state.md), its value at reset (R49), and the reasons a step can stop. -/

namespace Sys2Proof.Machine

/-- The Display Buffer (R32, R70): (address, byte) pairs, addresses strictly rising, an unlisted address reading 0x00, the
reset contents (R32). `Memory.wf` (Ops.lean) is the canonical form. -/
abbrev Memory := List Host.Cell

/-- The FAULT register's codes (R46); code 3 is never written. `faultBits` (Ops.lean) gives the two bits. -/
inductive FaultCode
  /-- 0: none. -/
  | noFault
  /-- 1: ILLEGAL_COMMAND. -/
  | illegalCommand
  /-- 2: NOT_INITIALISED. -/
  | notInitialised
deriving DecidableEq, Repr

/-- Where HOST stands in its own program (R247, R322). -/
inductive HostProgram
  /-- HOST is an outside host: it issues exactly the words put in `pending`. -/
  | external
  /-- HOST is in MAIN with these commands to issue, and one animation step after them. -/
  | issuing (commands : List Instr)
  /-- HOST is in MAIN inside an animation step, with these of its commands left; its counter is written with the last. -/
  | calling (commands : List Instr)
deriving DecidableEq, Repr

/-- The state: the block's (R32 to R46), the host procedures' (R48) and the model's own interface fields. -/
structure State where
  /-- BUF[0..7] (R32). -/
  buf : Memory
  /-- INIT_DONE (R34). -/
  initDone : Bool
  /-- OUT_EN (R35). -/
  outEn : Bool
  /-- SCAN_ACTIVE (R39). -/
  scanActive : Bool
  /-- SCAN_POS, a u4 holding 0..8 (R38). -/
  scanPos : BitVec 4
  /-- DIG_SEL: a digit position, or NONE (R36). -/
  digSel : Option Slot
  /-- SEG_OUT, a logical mask (R37). -/
  segOut : Byte
  /-- TONE_EN (R42). -/
  toneEn : Bool
  /-- T, a u10 holding 0..767 (R43). -/
  t : BitVec 10
  /-- CMP (R44): no value before the first tick, as the spec says; CMP_WIDTH is at most 32 (log 1, log 5). -/
  cmp : Option (BitVec 32)
  /-- CMP_VALID (R44). -/
  cmpValid : Bool
  /-- FAULT (R46). -/
  fault : FaultCode
  /-- FAULT_CMD (R46): no value before the first fault, as the spec says (log 1). -/
  faultCmd : Option Word
  /-- C, the scroll counter of the host procedures (R48). -/
  hostC : Nat
  /-- PH, the wave phase of the host procedures (R48). -/
  hostPh : Nat
  /-- MODEL: the command words put in from outside and not yet accepted, oldest first (R79, log 3). -/
  pending : List Word
  /-- MODEL: where HOST stands in its own program, which goes on when nothing is pending (R322, log 3). -/
  program : HostProgram
  /-- MODEL: the responses to RDBUF so far, oldest first (R11, log 10). -/
  responses : List Byte
  /-- MODEL: which agent is offered the next step (log 2). -/
  turn : Turn
  /-- MODEL: the counter the free values are applied to (log 2). -/
  stepNo : Nat
deriving DecidableEq, Repr

/-- Power-on reset (R49, R320), with HOST at the start of MAIN and C = PH = 0 (R322). -/
def State.reset : State where
  buf := []
  initDone := false
  outEn := false
  scanActive := false
  scanPos := 0
  digSel := none
  segOut := 0x00
  toneEn := false
  t := 0
  cmp := none
  cmpValid := false
  fault := .noFault
  faultCmd := none
  hostC := 0
  hostPh := 0
  pending := []
  program := .issuing [.init, .toneStart, .scan]
  responses := []
  turn := .hostOrScan
  stepNo := 0

/-- Why the machine is stuck. No instruction's meaning raises one; only the choice of the next agent does. -/
inductive Fault
  /-- FAULT holds this nonzero code, so "none of HOST, SCAN and TONE has a step" (R284; 93 I18 "stuck"). Raised by
  `agentStep`. Safe: the model stops where the device's behaviour is unknown. -/
  | stopped (code : FaultCode)
  /-- SCAN_ACTIVE = 1 and SCAN_POS holds this value in 9..15, for which R152 gives the SCAN agent no step. Raised by
  `scanStep`; no state a run reaches has it (R38). Safe. -/
  | scanPosOutOfRange (pos : BitVec 4)
deriving DecidableEq, Repr

/-- Why the model gives no meaning. -/
inductive Refusal
  /-- An instruction whose arm of `exec` has no meaning yet. Raised by no arm now. Safe. -/
  | notModelled (mnemonic : String)
  /-- The configuration is ill-formed (R13: "The model refuses an ill-formed configuration"). Raised by `stepUnder`.
  Safe. -/
  | illFormedConfig
deriving DecidableEq, Repr

/-- The three outcomes of a step of this machine. -/
abbrev Outcome := Host.Outcome State Fault Refusal

end Sys2Proof.Machine
end

