-- ==== Sys2Proof/Machine/Ops.lean ====
section
/-! DEFINITION. The named operations over memory and registers: reading and writing the Display Buffer as a list in canonical
form, the pseudocode primitives of R17, and taking a fault (R283), the block's only exception. There is no return from one
(R292): only power-on leaves the faulted state. -/

namespace Sys2Proof.Machine

/-- An outcome with its next state, if any, changed by `f`. -/
def onNext (f : State → State) (o : Outcome) : Outcome :=
  match o with
  | .next s => .next (f s)
  | .fault r => .fault r
  | .refused r => .refused r

/-! The Display Buffer as memory (R70, R71). -/

/-- The byte at an address; an unlisted address reads 0x00, the reset contents (R32). -/
def Memory.read : Memory → Nat → Byte
  | [], _ => 0x00
  | (b, v) :: rest, a => if a = b then v else Memory.read rest a

/-- The list with every entry for address `a` taken out. -/
def Memory.erase (m : Memory) (a : Nat) : Memory := m.filter fun cell => decide (cell.1 ≠ a)

/-- The list with the entry (a, v) put before the first larger address. -/
def Memory.insert : Memory → Nat → Byte → Memory
  | [], a, v => [(a, v)]
  | (b, u) :: rest, a, v => if a < b then (a, v) :: (b, u) :: rest else (b, u) :: Memory.insert rest a v

/-- Write one byte. Writing 0x00, what an unlisted address reads as, leaves the address unlisted. -/
def Memory.write (m : Memory) (a : Nat) (v : Byte) : Memory :=
  if v = 0x00 then Memory.erase m a else Memory.insert (Memory.erase m a) a v

/-- Canonical from address `lo` up: addresses strictly rising, below 8 (R70), and no entry equal to 0x00. -/
def Memory.wfFrom : Nat → Memory → Bool
  | _, [] => true
  | lo, (a, v) :: rest => decide (lo ≤ a) && decide (a < nDigits) && decide (v ≠ 0x00) && Memory.wfFrom (a + 1) rest

/-- The canonical form of a Display Buffer. -/
def Memory.wf (m : Memory) : Bool := Memory.wfFrom 0 m

/-! The primitives of R17. -/

/-- SelectDigit(p): DIG_SEL <- p, a position or NONE (R17, R36). -/
def selectDigit (p : Option Slot) (s : State) : State := { s with digSel := p }

/-- SetSegments(m): SEG_OUT <- m (R17, R37). -/
def setSegments (m : Byte) (s : State) : State := { s with segOut := m }

/-- SetTone(c): CMP <- c and CMP_VALID <- 1 (R17, R44). -/
def setTone (c : Nat) (s : State) : State := { s with cmp := some (BitVec.ofNat 32 c), cmpValid := true }

/-- respond(v): v goes to HOST as the command's response (R17). -/
def respond (v : Byte) (s : State) : State := { s with responses := s.responses ++ [v] }

/-- The two bits of the FAULT register (R46). -/
def faultBits : FaultCode → BitVec 2
  | .noFault => 0
  | .illegalCommand => 1
  | .notInitialised => 2

/-- TAKING A FAULT: raise Fault(code, w) records the code and the word, and nothing else changes: no handler, no saved
program counter, no mode (R283, R291). -/
def raiseFault (code : FaultCode) (w : Word) (s : State) : State := { s with fault := code, faultCmd := some w }

/-- Power-off loses all state, and the next power-on is a reset (R298, R320): the only way out of the faulted state (R292). -/
def powerOn (_ : State) : State := State.reset

/-! The other register writes of the command, slot-step and tick rules. -/

/-- SCAN_POS and SCAN_ACTIVE (R38, R39). -/
def setScan (pos : BitVec 4) (active : Bool) (s : State) : State := { s with scanPos := pos, scanActive := active }

/-- T <- v (R43). -/
def setT (v : Nat) (s : State) : State := { s with t := BitVec.ofNat 10 v }

end Sys2Proof.Machine
end

