-- ==== Sys2Proof/Machine/Operands.lean ====
section
/-! DEFINITION. The operand forms (R102): SLOT, a u3 used unchanged as an address of the Display Buffer, and MASK, a u8 used
unchanged. A SLOT operand is read and written through MemRead and MemWrite of R71, one byte wide; no other width exists. -/

namespace Sys2Proof.Machine

/-- MemRead(a, 1) = BUF[a] (R71). -/
def memRead (s : State) (a : Slot) : Byte := Memory.read s.buf a.toNat

/-- MemWrite(a, 1, v): BUF[a] <- v (R71). -/
def memWrite (a : Slot) (v : Byte) (s : State) : State := { s with buf := Memory.write s.buf a.toNat v }

/-- for i in 0..7: BUF[i] <- 0x00 (R142), in one step (R75). -/
def clearBuf (s : State) : State := slots.foldl (fun s a => memWrite a 0x00 s) s

end Sys2Proof.Machine
end

