-- ==== Sys2Proof/Machine/Flags.lean ====
section
/-! DEFINITION. The block has no condition codes (40_display.md, file introduction). Its control bits are INIT_DONE, OUT_EN
and TONE_EN, written here, and the command gate that reads INIT_DONE (R141). -/

namespace Sys2Proof.Machine

/-- INIT_DONE <- 1 and OUT_EN <- 1 (R34, R35): only INIT does so, and nothing clears them but reset. -/
def enableDisplay (s : State) : State := { s with outEn := true, initDone := true }

/-- TONE_EN <- 1 (R42): only TONE_START does so, and nothing clears it but reset. -/
def enableTone (s : State) : State := { s with toneEn := true }

/-- The commands that the initialisation gate covers (R141). -/
def isGated : Instr → Bool
  | .nop => false
  | .init => false
  | .wrbuf _ _ => true
  | .rdbuf _ => true
  | .scan => true
  | .toneStart => false

/-- The initialisation gate (R141): with INIT_DONE = 0 the command only raises NOT_INITIALISED, recording its own word
(R282); otherwise it has its effect. -/
def gated (i : Instr) (effect : State → State) (s : State) : Outcome :=
  if s.initDone then .next (effect s) else .next (raiseFault .notInitialised (encode i) s)

end Sys2Proof.Machine
end

