-- ==== Sys2Proof/Machine/Display.lean ====
section
/-! DEFINITION. The meanings of the display commands NOP, INIT, WRBUF, RDBUF and SCAN (40_display.md section 2 and R150).
A meaning is the effect of an ACCEPTED command: the fault and hold checks that decide whether HOST has a step at all (R140,
R151) stand in Agents.lean. -/

namespace Sys2Proof.Machine

/-- NOP: nothing (R147). -/
def execNop (s : State) : Outcome := .next s

/-- INIT: clear the buffer, drive the lines, open the gate, deselect and darken (R142). -/
def execInit (s : State) : Outcome :=
  .next (setSegments 0x00 (selectDigit none (enableDisplay (clearBuf s))))

/-- WRBUF: BUF[SLOT] <- MASK (R144). -/
def execWrbuf (slot : Slot) (mask : Byte) (s : State) : Outcome :=
  gated (.wrbuf slot mask) (memWrite slot mask) s

/-- RDBUF: respond(BUF[SLOT]) (R146). -/
def execRdbuf (slot : Slot) (s : State) : Outcome :=
  gated (.rdbuf slot) (fun s => respond (memRead s slot) s) s

/-- SCAN: SCAN_POS <- 0 and SCAN_ACTIVE <- 1; no line changes (R150). -/
def execScan (s : State) : Outcome :=
  gated .scan (setScan 0 true) s

end Sys2Proof.Machine
end

