-- ==== Sys2Proof/Machine/Tone.lean ====
section
/-! DEFINITION. The tone sequencer: the TONE_START command (R192), the tick (R195) and the generator's frequency (R203). -/

namespace Sys2Proof.Machine

/-- TONE_START: TONE_EN <- 1; T is not reset (R192). -/
def execToneStart (s : State) : Outcome := .next (enableTone s)

/-- TICK: program the compare value of the current T, then advance T (R195, R201). The configuration is well-formed, so the
value fits CMP (R202) and the tick has no fault. -/
def tick (cfg : WfConfig) (s : State) : State :=
  setT (nextTick s.t.toNat) (setTone (compareAt cfg.config s.t.toNat) s)

/-- f_out = CLOCK_RATE / CMP while TONE_EN = 1 and CMP_VALID = 1 (R203); none while the generator does not run. -/
def outputFrequency (cfg : WfConfig) (s : State) : Option ℚ :=
  if s.toneEn && s.cmpValid then s.cmp.map fun c => (cfg.config.clockRate : ℚ) / (c.toNat : ℚ) else none

end Sys2Proof.Machine
end

