-- ==== Sys2Proof/Machine/Dispatch.lean ====
section
/-! DEFINITION. exec: one arm per command, each a direct call of its meaning. -/

namespace Sys2Proof.Machine

-- The effect of an accepted command (R140's "execute c by its rule", with the gate of R141).
def exec (i : Instr) (s : State) : Host.Outcome State Fault Refusal :=
  match i with
  | .nop => Sys2Proof.Machine.execNop s
  | .init => Sys2Proof.Machine.execInit s
  | .wrbuf slot mask => Sys2Proof.Machine.execWrbuf slot mask s
  | .rdbuf slot => Sys2Proof.Machine.execRdbuf slot s
  | .scan => Sys2Proof.Machine.execScan s
  | .toneStart => Sys2Proof.Machine.execToneStart s

end Sys2Proof.Machine
end

