-- ==== Sys2Proof/Machine/HostProc.lean ====
section
/-! DEFINITION. The host procedures (42_host_software.md), each as the list of block commands it issues (R230): the font,
the renderer, the two animation generators and MAIN; and how HOST comes by its next command word. -/

namespace Sys2Proof.Machine

/-! The font (R231 to R235). -/

/-- Case folding: 'a'..'z' become 'A'..'Z' (R232, R18). -/
def foldCase (x : Byte) : Byte := if 0x61 ≤ x.toNat ∧ x.toNat ≤ 0x7A then x - 0x20 else x

/-- The 28 symbols with a drawn glyph: '0'..'9' and the letters other than D, F, O, Q, T, W, X, Z (R235, R233). -/
def glyphSymbols : List Byte :=
  [0x30, 0x31, 0x32, 0x33, 0x34, 0x35, 0x36, 0x37, 0x38, 0x39] ++
  [0x41, 0x42, 0x43, 0x45, 0x47, 0x48, 0x49, 0x4A, 0x4B, 0x4C, 0x4D, 0x4E, 0x50, 0x52, 0x53, 0x55, 0x56, 0x59]

/-- FONT(x): the configuration's mask for a symbol with a drawn glyph, else 0x00 (R231 to R234). -/
def fontMask (cfg : WfConfig) (x : Byte) : Byte :=
  match glyphSymbols.idxOf? (foldCase x) with
  | some i => cfg.config.font.toList.getD i 0x00
  | none => 0x00

/-! The renderer (R236 to R241). -/

/-- p1, the position after the remap that skips the special digit (R236). -/
def remapped (cfg : WfConfig) (pos : Nat) : Nat := pos + (if pos ≥ cfg.config.remapFrom then 1 else 0)

/-- phys(pos): the mirrored digit position, or none where pos is invalid; the check comes after the remap (R236). -/
def physPos (cfg : WfConfig) (pos : Nat) : Option Slot :=
  if remapped cfg pos > 7 then none else some (BitVec.ofNat 3 (7 - remapped cfg pos))

/-- SKIP = 7 - REMAP_FROM: the digit the renderer never writes (R237). -/
def skipDigit (cfg : WfConfig) : Slot := BitVec.ofNat 3 (7 - cfg.config.remapFrom)

/-- PUTC pos, ch (R238). -/
def putc (cfg : WfConfig) (pos : Nat) (ch : Byte) : List Instr :=
  match physPos cfg pos with
  | some p => [.wrbuf p (fontMask cfg ch)]
  | none => []

/-- PUTS start, text (R240). -/
def puts (cfg : WfConfig) (start : Nat) : List Byte → List Instr
  | [] => []
  | ch :: rest => if start ≤ 6 then putc cfg start ch ++ puts cfg (start + 1) rest else []

/-- CLEAR: WRBUF 0, 0 ... WRBUF 7, 0 (R109). -/
def clearCommands : List Instr := slots.map fun d => .wrbuf d 0x00

/-! The animation generators (R242 to R246). -/

/-- The scroll offset o = C div 50 (R242). -/
def scrollOffset (c : Nat) : Nat := c / scrollN

/-- C <- (C + 1) mod (50 * L) (R242). -/
def nextC (cfg : WfConfig) (c : Nat) : Nat := (c + 1) % (scrollN * cfg.config.msgLength)

/-- The commands of SCROLL_STEP with counter C: PUTS 0, MSG[o .. L-1] (R242). -/
def scrollCommands (cfg : WfConfig) (c : Nat) : List Instr :=
  puts cfg 0 (cfg.config.msg.drop (scrollOffset c))

/-- The wave rotation r = PH div 10 (R245). -/
def waveRotation (ph : Nat) : Nat := ph / waveK

/-- PH <- (PH + 1) mod 80 (R245). -/
def nextPh (ph : Nat) : Nat := (ph + 1) % (nDigits * waveK)

/-- The segment lit on digit d by a wave of rotation r: (d + r) mod 8 (R245). -/
def waveSegment (r : Nat) (d : Slot) : Nat := (d.toNat + r) % nDigits

/-- The commands of WAVE_STEP with phase PH: WRBUF d, (1 << ((d + r) mod 8)) for every digit (R245). -/
def waveCommands (ph : Nat) : List Instr :=
  slots.map fun d => .wrbuf d (1#8 <<< waveSegment (waveRotation ph) d)

/-- SCROLL_STEP: its commands, and the state with C advanced, which is written after the commands (R242). -/
def scrollStep (cfg : WfConfig) (s : State) : List Instr × State :=
  (scrollCommands cfg s.hostC, { s with hostC := nextC cfg s.hostC })

/-- WAVE_STEP: its commands, and the state with PH advanced, which is written after the commands (R245). -/
def waveStep (s : State) : List Instr × State :=
  (waveCommands s.hostPh, { s with hostPh := nextPh s.hostPh })

/-- One animation step of MAIN: the generator that ANIMATION names (R247). -/
def animationStep (cfg : WfConfig) (s : State) : List Instr × State :=
  match cfg.config.animation with
  | .scroll => scrollStep cfg s
  | .wave => waveStep s

/-! MAIN, HOST's own program (R247, R322), and words from outside (R79). -/

/-- The next command of an animation step with these commands left. With none left (no state a run reaches stands there, R48)
the counter is written and SCAN follows. -/
def callCommand (cfg : WfConfig) (commands : List Instr) (s : State) : Instr × State :=
  match commands with
  | i :: rest => (i, { s with program := .calling rest })
  | [] => (.scan, { (animationStep cfg s).2 with program := .issuing [] })

/-- The next command of HOST's own program, and the state with HOST past it (R247): MAIN issues INIT, TONE_START and SCAN,
and then, each time, the commands of one animation step and SCAN again. An outside host has no program to go on with. -/
def nextCommand (cfg : WfConfig) (s : State) : Option (Instr × State) :=
  match s.program with
  | .external => none
  | .issuing (i :: rest) => some (i, { s with program := .issuing rest })
  | .issuing [] => some (callCommand cfg (animationStep cfg s).1 s)
  | .calling commands => some (callCommand cfg commands s)

/-- The end of the HOST step that took the last command of an animation step: the counter is written, if that command raised
no fault, and SCAN comes next (R242, R245; P2 of 95_test_vectors.md: PH = 2 right after the second step's eighth WRBUF;
log 11). -/
def endCall (cfg : WfConfig) (s : State) : State :=
  if s.program = .calling [] ∧ s.fault = .noFault then
    { (animationStep cfg s).2 with program := .issuing [.scan] }
  else s

/-- Words put in from outside: they are accepted after those already put in, in issue order (R79). -/
def issueWords (ws : List Word) (s : State) : State := { s with pending := s.pending ++ ws }

end Sys2Proof.Machine
end

