-- ==== Sys2Proof/Machine/Scan.lean ====
section
/-! DEFINITION. The SCAN agent: the slot step (R155), the end-of-frame step (R157) and the choice between them (R152). -/

namespace Sys2Proof.Machine

/-- The slot step for position p: DIG_SEL <- p, SEG_OUT <- BUF[p], SCAN_POS <- p + 1, all in one step (R155). -/
def slotStep (p : Slot) (s : State) : State :=
  setScan (p.setWidth 4 + 1) s.scanActive (setSegments (memRead s p) (selectDigit (some p) s))

/-- The end-of-frame step: deselect, darken, SCAN_POS <- 0, SCAN_ACTIVE <- 0 (R157). -/
def endOfFrame (s : State) : State :=
  setScan 0 false (setSegments 0x00 (selectDigit none s))

/-- One step of the SCAN agent: a slot step if SCAN_POS < 8, the end-of-frame step if SCAN_POS = 8 (R152). -/
def scanStep (s : State) : Outcome :=
  if s.scanPos.toNat < 8 then .next (slotStep (s.scanPos.setWidth 3) s)
  else if s.scanPos.toNat = 8 then .next (endOfFrame s)
  else .fault (.scanPosOutOfRange s.scanPos)

end Sys2Proof.Machine
end

