-- ==== Sys2Proof/Machine/Agents.lean ====
section
/-! DEFINITION. The three agents and one step of the block: who has a step (R140, R152, R190), the HOST step with its order of
checks (R140, R290), the stuck faulted state (R284), and the interleaving (R82, R289). -/

namespace Sys2Proof.Machine

/-- HOST may take a command: FAULT = 0 and SCAN_ACTIVE = 0 (R140, R151, R296). -/
def hostEnabled (s : State) : Bool := decide (s.fault = .noFault) && !s.scanActive

/-- SCAN has a step (R152). -/
def scanEnabled (s : State) : Bool := s.scanActive && decide (s.fault = .noFault)

/-- TONE has a step (R190). -/
def toneEnabled (s : State) : Bool := s.toneEn && decide (s.fault = .noFault)

/-- The HOST step with an accepted word: decode, then ILLEGAL_COMMAND, then the command's own rule, which holds the
NOT_INITIALISED gate (R140, R290). The hold, the first check, is `agentStep`'s: a held word stays pending (R151). -/
def hostStep (w : Word) (s : State) : Outcome :=
  match decode w with
  | .error _ => .next (raiseFault .illegalCommand w s)
  | .ok i => exec i s

/-- One step of whichever agent moves. TONE moves when its turn has come and it is enabled; otherwise SCAN while a frame is
active, otherwise HOST if it has a command: the words from outside first, then its own program's. Where only TONE is enabled
it moves; where no agent has a step and FAULT = 0, the block waits for HOST unchanged (log 8). -/
def agentStep (cfg : WfConfig) (s : State) : Outcome :=
  if s.fault ≠ .noFault then .fault (.stopped s.fault)
  else if s.turn = .tone ∧ s.toneEn = true then .next (tick cfg s)
  else if s.scanActive then scanStep s
  else
    match s.pending with
    | w :: rest => hostStep w { s with pending := rest }
    | [] =>
      match nextCommand cfg s with
      | some (i, s') => onNext (endCall cfg) (hostStep (encode i) s')
      | none => if s.toneEn then .next (tick cfg s) else .next s

/-- Draw who is offered the next step; only while the tick is enabled is there anything to draw (R191, R194). -/
def reschedule (sched : Nat → Turn) (s : State) : State :=
  { s with turn := if s.toneEn then sched s.stepNo else .hostOrScan, stepNo := s.stepNo + 1 }

/-- One step under a configuration and a schedule. -/
def stepWith (cfg : WfConfig) (sched : Nat → Turn) (s : State) : Outcome :=
  match agentStep cfg s with
  | .next s' => .next (reschedule sched s')
  | .fault r => .fault r
  | .refused r => .refused r

/-- One step under a raw configuration: an ill-formed one is refused (R13). -/
def stepUnder (cfg : Config) (sched : Nat → Turn) (s : State) : Outcome :=
  if h : cfg.wf = true then stepWith ⟨cfg, h⟩ sched s else .refused .illFormedConfig

/-! Several steps, for statements about a frame, a melody and the host procedures. -/

/-- k steps under a configuration and a schedule. -/
def runWith (cfg : WfConfig) (sched : Nat → Turn) : Nat → State → Outcome
  | 0, s => .next s
  | k + 1, s =>
    match stepWith cfg sched s with
    | .next s' => runWith cfg sched k s'
    | .fault r => .fault r
    | .refused r => .refused r

/-- k steps of the SCAN agent (R152). -/
def scanSteps : Nat → State → Outcome
  | 0, s => .next s
  | k + 1, s =>
    match scanStep s with
    | .next s' => scanSteps k s'
    | .fault r => .fault r
    | .refused r => .refused r

/-- k ticks (R195). -/
def ticks (cfg : WfConfig) : Nat → State → State
  | 0, s => s
  | k + 1, s => ticks cfg k (tick cfg s)

/-- A list of accepted commands, one after another: a procedure's run of HOST steps (R230). -/
def execAll : List Instr → State → Outcome
  | [], s => .next s
  | i :: rest, s =>
    match exec i s with
    | .next s' => execAll rest s'
    | .fault r => .fault r
    | .refused r => .refused r

/-- k calls of SCROLL_STEP, the counter alone (R242). -/
def scrollCalls (cfg : WfConfig) : Nat → State → State
  | 0, s => s
  | k + 1, s => scrollCalls cfg k (scrollStep cfg s).2

end Sys2Proof.Machine
end

