-- ==== Sys2Proof/Machine/Assembler.lean ====
section
/-! DEFINITION. The assembler of R108 and the pseudo-instructions of R109: reading one line of source, and the commands a
source line stands for under a configuration. -/

namespace Sys2Proof.Machine

/-- The commands of a source line, or none where an operand is out of range ("it is not encoded", R108). -/
def assemble (cfg : WfConfig) (line : Asm) : Option (List Instr) :=
  if line.wf then
    match line with
    | .nop => some [.nop]
    | .init => some [.init]
    | .wrbuf slot mask => some [.wrbuf (BitVec.ofNat 3 slot) (BitVec.ofNat 8 mask)]
    | .rdbuf slot => some [.rdbuf (BitVec.ofNat 3 slot)]
    | .scan => some [.scan]
    | .toneStart => some [.toneStart]
    | .putc pos ch => some (putc cfg pos ch)
    | .puts start text => some (puts cfg start text)
    | .clear => some clearCommands
  else none

/-! Reading a line. The source text is a list of characters. Blanks may stand around a token (log 22). A line is one command
and nothing else: R108 says nothing on comments or empty lines, and the reader takes neither (log 24). -/

/-- Drop leading blanks. -/
def skipBlanks : List Char → List Char
  | [] => []
  | ch :: rest => if ch = ' ' then skipBlanks rest else ch :: rest

/-- The value of a hexadecimal digit. -/
def hexDigit (ch : Char) : Option Nat :=
  if 48 ≤ ch.toNat ∧ ch.toNat ≤ 57 then some (ch.toNat - 48)
  else if 65 ≤ ch.toNat ∧ ch.toNat ≤ 70 then some (ch.toNat - 55)
  else if 97 ≤ ch.toNat ∧ ch.toNat ≤ 102 then some (ch.toNat - 87)
  else none

/-- The value of a decimal digit. -/
def decDigit (ch : Char) : Option Nat :=
  if 48 ≤ ch.toNat ∧ ch.toNat ≤ 57 then some (ch.toNat - 48) else none

/-- The digits at the head of the text, most significant first, as a number, and the rest. -/
def readDigits (base : Nat) (digit : Char → Option Nat) (acc : Nat) : List Char → Nat × List Char
  | [] => (acc, [])
  | ch :: rest =>
    match digit ch with
    | some d => readDigits base digit (acc * base + d) rest
    | none => (acc, ch :: rest)

/-- At least one digit must stand there. -/
def readDigits1 (base : Nat) (digit : Char → Option Nat) (text : List Char) : Option (Nat × List Char) :=
  match text with
  | [] => none
  | ch :: _ => if (digit ch).isSome then some (readDigits base digit 0 text) else none

/-- A number: decimal, or hexadecimal with a 0x prefix, or a character literal 'c' standing for its 8-bit code (R108). R18
gives a quoted character its ASCII code. DESIGN CHOICE (log 23): for a character that has none, the code is its Unicode
code point where that is in 128..255, and a character above 255 is not read. DESIGN CHOICE (log 25): there is no escape, so
any one character may stand between the single quotes, a quote itself too. -/
def readNumber (text : List Char) : Option (Nat × List Char) :=
  match text with
  | '\'' :: ch :: '\'' :: rest => if ch.toNat < 256 then some (ch.toNat, rest) else none
  | '0' :: 'x' :: rest => readDigits1 16 hexDigit rest
  | _ => readDigits1 10 decDigit text

/-- The characters up to the closing double quote, as 8-bit codes, and the rest after it. DESIGN CHOICE (log 25): the spec
gives no escape, so the first double quote ends the text, and no text holds one. DESIGN CHOICE (log 23): a character without
an ASCII code (R18) has its Unicode code point as its code where that is in 128..255, and one above 255 is not read. -/
def readQuoted : List Char → Option (List Byte × List Char)
  | [] => none
  | ch :: rest =>
    if ch.toNat = 34 then some ([], rest)
    else if ch.toNat < 256 then (readQuoted rest).map fun r => (BitVec.ofNat 8 ch.toNat :: r.1, r.2)
    else none

/-- A text in double quotes (R109). -/
def readText : List Char → Option (List Byte × List Char)
  | [] => none
  | ch :: rest => if ch.toNat = 34 then readQuoted rest else none

/-- The comma between two operands. -/
def readComma (text : List Char) : Option (List Char) :=
  match skipBlanks text with
  | ',' :: rest => some (skipBlanks rest)
  | _ => none

/-- Nothing but blanks is left. DESIGN CHOICE (log 24): the notes after ';' in R108's syntax block are read as the spec's own
remarks, not as part of the syntax, so a line that ends in such a comment is not read. -/
def atEnd (text : List Char) : Bool := (skipBlanks text).isEmpty

/-- One numeric operand and the end of the line. -/
def readOne (text : List Char) : Option Nat :=
  match readNumber text with
  | some (a, rest) => if atEnd rest then some a else none
  | none => none

/-- Two numeric operands and the end of the line. -/
def readTwo (text : List Char) : Option (Nat × Nat) :=
  match readNumber text with
  | some (a, rest) =>
    match readComma rest with
    | some rest => (readOne rest).map fun b => (a, b)
    | none => none
  | none => none

/-- A numeric operand, a text in quotes and the end of the line. -/
def readNumberAndText (text : List Char) : Option (Nat × List Byte) :=
  match readNumber text with
  | some (a, rest) =>
    match readComma rest with
    | some rest =>
      match readText rest with
      | some (chars, rest) => if atEnd rest then some (a, chars) else none
      | none => none
    | none => none
  | none => none

/-- The operands of a line whose mnemonic is read. DESIGN CHOICE (log 26): R108 and R109 do not say which operands may be a
number and which a character literal; every operand but the text of PUTS may be either, so PUTC's character may be a plain
number below 256 and a slot, mask or position may be a literal. -/
def parseOperands (mnemonic operands : List Char) : Option Asm :=
  if mnemonic = ['N', 'O', 'P'] then if operands.isEmpty then some .nop else none
  else if mnemonic = ['I', 'N', 'I', 'T'] then if operands.isEmpty then some .init else none
  else if mnemonic = ['S', 'C', 'A', 'N'] then if operands.isEmpty then some .scan else none
  else if mnemonic = ['T', 'O', 'N', 'E', '_', 'S', 'T', 'A', 'R', 'T'] then
    if operands.isEmpty then some .toneStart else none
  else if mnemonic = ['C', 'L', 'E', 'A', 'R'] then if operands.isEmpty then some .clear else none
  else if mnemonic = ['R', 'D', 'B', 'U', 'F'] then (readOne operands).map fun a => .rdbuf a
  else if mnemonic = ['W', 'R', 'B', 'U', 'F'] then (readTwo operands).map fun r => .wrbuf r.1 r.2
  else if mnemonic = ['P', 'U', 'T', 'C'] then
    match readTwo operands with
    | some (pos, ch) => if ch < 256 then some (.putc pos (BitVec.ofNat 8 ch)) else none
    | none => none
  else if mnemonic = ['P', 'U', 'T', 'S'] then (readNumberAndText operands).map fun r => .puts r.1 r.2
  else none

/-- One line of assembler source (R108, R109); none where it is no command's line. DESIGN CHOICE (log 24): an empty or blank
line, or one with a comment, is no command's line. -/
def parseLine (text : List Char) : Option Asm :=
  parseOperands ((skipBlanks text).takeWhile fun ch => ch ≠ ' ') (skipBlanks ((skipBlanks text).dropWhile fun ch => ch ≠ ' '))

end Sys2Proof.Machine
end

