-- ==== Sys2Proof/Machine/Lines.lean ====
section
/-! DEFINITION. The line outputs and what an observer sees: the groups of R77 and R78, their patterns (R153, R154), the
electrical levels (R160, R204), the pins (R78) and the observation of R11. Nothing here changes the state. -/

namespace Sys2Proof.Machine

/-- The electrical level of a line; `undriven` is Z (R160). -/
inductive Level
  | low
  | high
  | undriven
deriving DecidableEq, Repr

/-- A logical line: digit-select A0..A5 and B0..B1 (R77), segment X0..X1 and Y0..Y5 (R78), or the audio line. -/
inductive Line
  | a (i : Fin 6)
  | b (i : Fin 2)
  | x (i : Fin 2)
  | y (i : Fin 6)
  | audio
deriving DecidableEq, Repr

/-- The number of a line in `Config.pinMap`: A0..A5, B0..B1, X0..X1, Y0..Y5, audio (log 4). -/
def lineIndex : Line → Fin 17
  | .a i => ⟨i.val, by omega⟩
  | .b i => ⟨6 + i.val, by omega⟩
  | .x i => ⟨8 + i.val, by omega⟩
  | .y i => ⟨10 + i.val, by omega⟩
  | .audio => 16

/-- All the logical lines, in the order of their numbers. -/
def allLines : List Line :=
  (List.finRange 6).map Line.a ++ (List.finRange 2).map Line.b ++ (List.finRange 2).map Line.x ++
    (List.finRange 6).map Line.y ++ [.audio]

/-- The line of digit position p: A[p] for p in 0..5 and B[p - 6] for p in 6..7 (R77). -/
def digitLine (p : Slot) : Line :=
  if h : p.toNat < 6 then .a ⟨p.toNat, h⟩ else .b ⟨p.toNat - 6, by omega⟩

/-- The line of mask bit i: X[i] for i in 0..1 and Y[i - 2] for i in 2..7 (R78). -/
def segmentLine (i : Fin 8) : Line :=
  if h : i.val < 2 then .x ⟨i.val, h⟩ else .y ⟨i.val - 2, by omega⟩

/-- GA[5:0] (R153). -/
def groupA (s : State) : BitVec 6 :=
  match s.digSel with
  | some p => if p.toNat ≤ 5 then 1#6 <<< p.toNat else 0
  | none => 0

/-- GB[1:0] (R153). -/
def groupB (s : State) : BitVec 2 :=
  match s.digSel with
  | some p => if 6 ≤ p.toNat then 1#2 <<< (p.toNat - 6) else 0
  | none => 0

/-- GX[1:0] = SEG_OUT[1:0] (R154). -/
def groupX (s : State) : BitVec 2 := s.segOut.extractLsb' 0 2

/-- GY[5:0] = SEG_OUT[7:2] (R154). -/
def groupY (s : State) : BitVec 6 := s.segOut.extractLsb' 2 6

/-- The segment value driven, ~SEG_OUT: the segment lines are active-low (R160, R33). -/
def segDriven (s : State) : Byte := ~~~ s.segOut

/-- The level of a driven digit-select line, active or not (R160). -/
def digitLevel (cfg : WfConfig) (active : Bool) : Level :=
  if active == cfg.config.digActiveHigh then .high else .low

/-- The level of a driven segment line, lit or not (R160, SEG_ACTIVE_LOW of R12). -/
def segmentLevel (lit : Bool) : Level :=
  if lit == segActiveLow then .low else .high

/-- The level of the audio line at observation k of this state (R204), given the draws: undriven while TONE_EN = 0, and
otherwise a draw, whether CMP has been written or not. -/
def audioLevel (draw : Nat → Nat → Bool) (s : State) (k : Nat) : Level :=
  if s.toneEn then (if draw s.stepNo k then .high else .low) else .undriven

/-- The electrical level of a logical line at observation k of this state (R160, R204). -/
def level (cfg : WfConfig) (draw : Nat → Nat → Bool) (s : State) (k : Nat) : Line → Level
  | .a i => if s.outEn then digitLevel cfg ((groupA s).getLsbD i.val) else .undriven
  | .b i => if s.outEn then digitLevel cfg ((groupB s).getLsbD i.val) else .undriven
  | .x i => if s.outEn then segmentLevel ((groupX s).getLsbD i.val) else .undriven
  | .y i => if s.outEn then segmentLevel ((groupY s).getLsbD i.val) else .undriven
  | .audio => audioLevel draw s k

/-- The level at a physical (port, bit): that of the one logical line PIN_MAP puts there, if any (R78). -/
def pinLevel (cfg : WfConfig) (draw : Nat → Nat → Bool) (s : State) (k : Nat) (pin : Nat × Nat) : Option Level :=
  (allLines.find? fun line => decide (cfg.config.pinMap[lineIndex line] = pin)).map (level cfg draw s k)

/-- The machine's own lines: the configuration it runs under and the free draws. -/
def lineLevel (s : State) (k : Nat) (line : Line) : Level := level Config.board Config.freeAudioHigh s k line

/-- What a run shows of a state (R11, R46). -/
structure Observation where
  outEn : Bool
  digSel : Option Slot
  segOut : Byte
  toneEn : Bool
  cmp : Option (BitVec 32)
  responses : List Byte
  fault : FaultCode
  faultCmd : Option Word
deriving DecidableEq, Repr

/-- The observation of a state (R11). -/
def observe (s : State) : Observation where
  outEn := s.outEn
  digSel := s.digSel
  segOut := s.segOut
  toneEn := s.toneEn
  cmp := s.cmp
  responses := s.responses
  fault := s.fault
  faultCmd := s.faultCmd

end Sys2Proof.Machine
end

