-- ==== Sys2Proof/Machine/Step.lean ====
section
/-! DEFINITION. One step of the machine under its own configuration and its own free schedule, and how the host places a
command word where the next step takes it. -/

namespace Sys2Proof.Machine

/-- One atomic step of HOST, SCAN or TONE (R75, R82). -/
def step (s : State) : Outcome := stepWith Config.board Config.freeTurn s

/-- The state with the word whose bits are `w` as HOST's next command, ahead of what is already pending, and with TONE not
offered the next step. In a state in which HOST may take a command (R140), the next step takes exactly this one (log 3). -/
def State.withFetchWord (s : State) (nbits w : Nat) : State :=
  { s with pending := tableWord nbits w :: s.pending, turn := .hostOrScan }

end Sys2Proof.Machine
end

