-- ==== Sys2Proof/Safety.lean ====
section
/-! DEFINITION. The terms claims are stated in: the invariants of the state (R40, R41, R38, R43, R44, R46, R48), safety
(R284) and fairness (R335). -/

namespace Sys2Proof

open Machine

/-- The next state of an outcome, if it has one. -/
def nextOf (o : Outcome) : Option State :=
  match o with
  | .next s => some s
  | .fault _ => none
  | .refused _ => none

/-- `w` is the one word of command i (R103), and issuing it runs i, unless a frame is active, when it stays pending (R140,
R151). -/
def IssuedAs (w : Word) (i : Instr) : Prop :=
  (∀ v : Word, decode v = .ok i ↔ v = w) ∧
  ∀ (cfg : WfConfig) (s : State) (rest : List Word), s.fault = .noFault → (s.turn = .hostOrScan ∨ s.toneEn = false) →
    s.pending = w :: rest →
    agentStep cfg s = if s.scanActive = true then scanStep s else exec i { s with pending := rest }

/-- A state that no fault has stopped (R284: "a faulted state ... refutes every claim"). -/
def Unfaulted (s : State) : Prop := s.fault = .noFault

/-- The display invariants: R40 (`lit`), R41 (`between`), R38 (`posRange`), the canonical buffer, where in a frame each
digit is selected (R155, R157), and what INIT alone sets (R34, R35, R141). -/
structure DisplayInv (s : State) : Prop where
  mem : Memory.wf s.buf = true
  posRange : s.scanPos.toNat ≤ 8
  lit : ∀ p, s.digSel = some p → s.segOut = memRead s p
  dark : s.digSel = none → s.segOut = 0x00
  between : s.scanActive = false → s.digSel = none ∧ s.segOut = 0x00 ∧ s.scanPos = 0
  inFrameFirst : s.scanActive = true → s.scanPos = 0 → s.digSel = none
  inFrame : s.scanActive = true → s.scanPos ≠ 0 → s.digSel = some ((s.scanPos - 1).setWidth 3)
  driven : s.outEn = s.initDone
  ready : s.scanActive = true → s.initDone = true

/-- The tone invariants: T in 0..767 (R43); CMP_VALID says whether CMP has been written (R44); CMP in
1 .. 2^CMP_WIDTH - 1 (R47) and equal to the compare value of the last tick (R195); nothing happens before TONE_START (R191). -/
structure ToneInv (cfg : WfConfig) (s : State) : Prop where
  tRange : s.t.toNat < tMod
  valid : s.cmpValid = s.cmp.isSome
  range : ∀ c, s.cmp = some c → 1 ≤ c.toNat ∧ c.toNat < 2 ^ cfg.config.cmpWidth
  last : ∀ c, s.cmp = some c → c.toNat = compareAt cfg.config ((s.t.toNat + 767) % tMod)
  fresh : s.cmp = none → s.t = 0
  silent : s.toneEn = false → s.cmp = none

/-- The fault record: FAULT_CMD holds a value exactly in the faulted state, and it is a word that raises FAULT's code
(R46, R280). -/
structure FaultInv (s : State) : Prop where
  record : s.fault = .noFault ↔ s.faultCmd = none
  illegal : s.fault = .illegalCommand → ∃ w, s.faultCmd = some w ∧ isLegal w = false
  uninit : s.fault = .notInitialised →
    s.initDone = false ∧ ∃ i, s.faultCmd = some (encode i) ∧ isGated i = true

/-- The host counters' ranges (R48), and no unfaulted state stands past an animation step's last command with the counter
unwritten (`written`: the model's reading of R242 and R245, log 11, DEDUCED from P2 of 95_test_vectors.md). -/
structure HostInv (cfg : WfConfig) (s : State) : Prop where
  c : s.hostC < scrollN * cfg.config.msgLength
  ph : s.hostPh < nDigits * waveK
  written : s.fault = .noFault → s.program ≠ .calling []

/-- The commands of MAIN that HOST has made up and not issued. -/
def commandsLeft : HostProgram → List Instr
  | .external => []
  | .issuing commands => commands
  | .calling commands => commands

/-- HOST runs MAIN and nothing else (R247): no word comes from outside; no fault so far; no command is an RDBUF (R248); and
INIT comes before anything else. -/
structure MainInv (s : State) : Prop where
  unfaulted : s.fault = .noFault
  posRange : s.scanPos.toNat ≤ 8
  alone : s.pending = []
  isMain : s.program ≠ .external
  noRead : ∀ i ∈ commandsLeft s.program, ∀ p, i ≠ .rdbuf p
  initFirst : s.initDone = true ∨ (commandsLeft s.program).head? = some .init

/-- Weak fairness of a schedule (R335): TONE is offered infinitely many steps, and so are HOST and SCAN. -/
def FairSchedule (sched : Nat → Turn) : Prop :=
  (∀ n, ∃ m, n ≤ m ∧ sched m = .tone) ∧ ∀ n, ∃ m, n ≤ m ∧ sched m = .hostOrScan

/-- The (DIG_SEL, SEG_OUT) pair of a state, as R158 lists them. -/
def selection (s : State) : Option Slot × Byte := (s.digSel, s.segOut)

/-- What HOST commands and SCAN steps never write: T, CMP and CMP_VALID (R81). -/
def ToneSame (s s' : State) : Prop := s'.t = s.t ∧ s'.cmp = s.cmp ∧ s'.cmpValid = s.cmpValid

/-- What a tick never writes: the display state, the fault record and HOST's own state (R81, R201). -/
def DisplaySame (s s' : State) : Prop :=
  s'.buf = s.buf ∧ s'.initDone = s.initDone ∧ s'.outEn = s.outEn ∧ s'.scanActive = s.scanActive ∧
    s'.scanPos = s.scanPos ∧ s'.digSel = s.digSel ∧ s'.segOut = s.segOut

/-- HOST's own state: the counters, the pending words, the program and the responses (R48). -/
def HostSame (s s' : State) : Prop :=
  s'.hostC = s.hostC ∧ s'.hostPh = s.hostPh ∧ s'.pending = s.pending ∧ s'.program = s.program ∧
    s'.responses = s.responses

/-- FAULT and FAULT_CMD (R46). -/
def FaultSame (s s' : State) : Prop := s'.fault = s.fault ∧ s'.faultCmd = s.faultCmd

/-- The model's own scheduling fields. -/
def TurnSame (s s' : State) : Prop := s'.turn = s.turn ∧ s'.stepNo = s.stepNo

end Sys2Proof
end

