-- ==== Sys2Proof/Certificates/Slice0/Obligations.lean ====
section
/-! DEFINITION. The statements for the provers, from the numbered rules of spec/. -/

open Sys2Proof Sys2Proof.Machine

/-! ## Encoding (30_encoding.md) -/

/-- R104 with R108: every command decodes from its own word, and a word that decodes to a command is that command's word. -/
def Obligations.EncodingRoundTrips : Prop :=
  (∀ i : Instr, decode (encode i) = .ok i) ∧ ∀ (w : Word) (i : Instr), decode w = .ok i → encode i = w

/-- R103: a word is a command exactly if it selects a row of the table, that row is its command's, and no word selects two. -/
def Obligations.LegalWordsSelectExactlyOneRow : Prop :=
  (∀ w : Word, isLegal w = true ↔ ∃ r ∈ opcodeTable, selectsRow w r = true) ∧
  (∀ (w : Word) (i : Instr), decode w = .ok i → rowOf i ∈ opcodeTable ∧ selectsRow w (rowOf i) = true) ∧
  ∀ (w : Word) (r r' : TableRow), r ∈ opcodeTable → r' ∈ opcodeTable →
    selectsRow w r = true → selectsRow w r' = true → r = r'

/-- R105: which words are illegal, by opcode and reserved bits, and that issuing one raises ILLEGAL_COMMAND and nothing
else (R281, R283). -/
def Obligations.ReservedEncodingsRaiseIllegalCommand : Prop :=
  ∀ w : Word,
    (isLegal w = false ↔
      6 ≤ (opField w).toNat ∨
      ((opField w = 0 ∨ opField w = 1 ∨ opField w = 4 ∨ opField w = 5) ∧ w.extractLsb' 0 12 ≠ 0) ∨
      (opField w = 2 ∧ w.getLsbD 11 = true) ∨
      (opField w = 3 ∧ (w.getLsbD 11 = true ∨ w.extractLsb' 0 8 ≠ 0))) ∧
    (isLegal w = false → ∀ s : State, hostStep w s = .next { s with fault := .illegalCommand, faultCmd := some w })

/-- R106: 2060 legal words and 63476 illegal ones, and the legal ones class by class. -/
def Obligations.LegalWordCount : Prop :=
  (Finset.univ.filter fun w : Word => isLegal w = true).card = 2060 ∧
  (Finset.univ.filter fun w : Word => isLegal w = false).card = 63476 ∧
  (opcodeTable.map fun r => (Finset.univ.filter fun w : Word => selectsRow w r = true).card) = [1, 1, 2048, 8, 1, 1]

/-- The words of 95_test_vectors.md section 2.1 decode as listed there. -/
def Obligations.ListedWordsDecode : Prop :=
  decode 0x0000 = .ok .nop ∧ decode 0x1000 = .ok .init ∧ decode 0x2000 = .ok (.wrbuf 0 0x00) ∧
  decode 0x2381 = .ok (.wrbuf 3 0x81) ∧ decode 0x27FF = .ok (.wrbuf 7 0xFF) ∧ decode 0x3000 = .ok (.rdbuf 0) ∧
  decode 0x3700 = .ok (.rdbuf 7) ∧ decode 0x4000 = .ok .scan ∧ decode 0x5000 = .ok .toneStart ∧
  (([0x0001, 0x0FFF, 0x1800, 0x2800, 0x2FFF, 0x3701, 0x3800, 0x4001, 0x5100, 0x6000, 0xFFFF] : List Word).all
    fun w => !isLegal w) = true

/-! ## Commands (40_display.md, 41_tone.md) -/

/-- R147: NOP is the word 0x0000 only, every other word of opcode 0 being illegal; it completes in every state, changes
nothing, and is held during a frame. -/
def Obligations.NopChangesNothing : Prop :=
  IssuedAs 0x0000 .nop ∧ (∀ w : Word, opField w = 0 → w ≠ 0x0000 → isLegal w = false) ∧
  ∀ s : State, exec .nop s = .next s

/-- R142: INIT is the word 0x1000, held during a frame, and completes in every state, initialised or not; every entry reads 0x00, the lines are enabled, the gate is open, no digit is selected
and the segments are dark; everything else, the tone state included, is unchanged. -/
def Obligations.InitBlanksAndEnables : Prop :=
  IssuedAs 0x1000 .init ∧
  ∀ s : State, ∃ m : Memory,
    exec .init s = .next { s with buf := m, outEn := true, initDone := true, digSel := none, segOut := 0x00 } ∧
    (∀ p : Slot, Memory.read m p.toNat = 0x00) ∧
    (∀ a : Nat, 8 ≤ a → Memory.read m a = Memory.read s.buf a) ∧
    (Memory.wf s.buf = true → m = [])

/-- R76: INIT is idempotent, RDBUF repeated gives the same value, and WRBUF repeated leaves the same state. -/
def Obligations.RepeatsAreIdempotent : Prop :=
  (∀ s t : State, exec .init s = .next t → exec .init t = .next t) ∧
  (∀ (s t : State) (p : Slot), s.initDone = true → exec (.rdbuf p) s = .next t →
    t.responses = s.responses ++ [memRead s p] ∧
    exec (.rdbuf p) t = .next { t with responses := t.responses ++ [memRead s p] }) ∧
  (∀ (s t : State) (p : Slot) (v : Byte), s.initDone = true → Memory.wf s.buf = true →
    exec (.wrbuf p v) s = .next t → exec (.wrbuf p v) t = .next t)

/-- R144: WRBUF is the word 0x2000 | SLOT << 8 | MASK, with bit 11 set illegal. With INIT_DONE = 1 it completes and writes
its entry; every other byte of memory and every other field is unchanged (no line moves), the canonical form is kept, and
writing the value already held leaves the state unchanged. With INIT_DONE = 0 it raises NOT_INITIALISED. -/
def Obligations.WrbufWritesOneEntry : Prop :=
  (∀ (slot : Slot) (mask : Byte),
    IssuedAs (0x2000#16 ||| slot.setWidth 16 <<< 8 ||| mask.setWidth 16) (.wrbuf slot mask)) ∧
  (∀ w : Word, opField w = 2 → w.getLsbD 11 = true → isLegal w = false) ∧
  (∀ (s : State) (slot : Slot) (mask : Byte), s.initDone = false →
    exec (.wrbuf slot mask) s =
      .next { s with fault := .notInitialised, faultCmd := some (encode (.wrbuf slot mask)) }) ∧
  ∀ (s : State) (slot : Slot) (mask : Byte), s.initDone = true →
    ∃ m : Memory, exec (.wrbuf slot mask) s = .next { s with buf := m } ∧
      Memory.read m slot.toNat = mask ∧
      (∀ a : Nat, a ≠ slot.toNat → Memory.read m a = Memory.read s.buf a) ∧
      (Memory.wf s.buf = true → Memory.wf m = true) ∧
      (Memory.wf s.buf = true → memRead s slot = mask → m = s.buf)

/-- R146: RDBUF is the word 0x3000 | SLOT << 8, with any reserved bit set illegal. With INIT_DONE = 1 it completes and
responds with its entry, and nothing of the block changes; right after INIT it responds 0x00. With INIT_DONE = 0 it raises
NOT_INITIALISED. -/
def Obligations.RdbufRespondsWithTheEntry : Prop :=
  (∀ slot : Slot, IssuedAs (0x3000#16 ||| slot.setWidth 16 <<< 8) (.rdbuf slot)) ∧
  (∀ w : Word, opField w = 3 → (w.getLsbD 11 = true ∨ w.extractLsb' 0 8 ≠ 0) → isLegal w = false) ∧
  (∀ (s : State) (slot : Slot), s.initDone = true →
    exec (.rdbuf slot) s = .next { s with responses := s.responses ++ [memRead s slot] }) ∧
  (∀ (s t : State) (slot : Slot), exec .init s = .next t →
    exec (.rdbuf slot) t = .next { t with responses := t.responses ++ [0x00] }) ∧
  ∀ (s : State) (slot : Slot), s.initDone = false →
    exec (.rdbuf slot) s = .next { s with fault := .notInitialised, faultCmd := some (encode (.rdbuf slot)) }

/-- R150: SCAN is the word 0x4000, held during a frame. With INIT_DONE = 1 it completes, clears SCAN_POS and starts a frame;
no line and nothing else changes. With INIT_DONE = 0 it raises NOT_INITIALISED. -/
def Obligations.ScanStartsAFrame : Prop :=
  IssuedAs 0x4000 .scan ∧
  (∀ s : State, s.initDone = true → exec .scan s = .next { s with scanPos := 0, scanActive := true }) ∧
  ∀ s : State, s.initDone = false →
    exec .scan s = .next { s with fault := .notInitialised, faultCmd := some 0x4000 }

/-- R192: TONE_START is the word 0x5000; it completes in every state, initialised or not, and only sets TONE_EN (T is not
reset); repeated it changes nothing; and no command clears TONE_EN. -/
def Obligations.ToneStartOnlyEnablesTheTick : Prop :=
  IssuedAs 0x5000 .toneStart ∧
  (∀ s : State, exec .toneStart s = .next { s with toneEn := true } ∧
    (s.toneEn = true → exec .toneStart s = .next s)) ∧
  ∀ (i : Instr) (s t : State), exec i s = .next t → s.toneEn = true → t.toneEn = true

/-- R141 and R282: with INIT_DONE = 0, WRBUF, RDBUF and SCAN only record NOT_INITIALISED and their word, with no response;
NOP, INIT and TONE_START raise nothing. -/
def Obligations.UninitialisedDisplayCommandsFault : Prop :=
  ∀ s : State, s.initDone = false →
    (∀ (p : Slot) (v : Byte), exec (.wrbuf p v) s =
      .next { s with fault := .notInitialised, faultCmd := some (encode (.wrbuf p v)) }) ∧
    (∀ p : Slot, exec (.rdbuf p) s = .next { s with fault := .notInitialised, faultCmd := some (encode (.rdbuf p)) }) ∧
    exec .scan s = .next { s with fault := .notInitialised, faultCmd := some (encode .scan) } ∧
    ∀ i ∈ [Instr.nop, .init, .toneStart], ∃ t, exec i s = .next t ∧ t.fault = s.fault ∧ t.faultCmd = s.faultCmd

/-- R325: INIT and TONE_START may be issued in either order with the same result. -/
def Obligations.InitAndToneStartCommute : Prop :=
  ∀ s : State, ∃ t, execAll [.init, .toneStart] s = .next t ∧ execAll [.toneStart, .init] s = .next t

/-! ## The HOST step (R140, R151, R290) -/

/-- R140 with R290: when HOST moves, the pending word is taken and checked in the spec's order: an illegal word raises
ILLEGAL_COMMAND whether or not INIT has run, a gated command with INIT_DONE = 0 raises NOT_INITIALISED, and any other
command executes. Only the head of `pending` is consumed. The hold comes first: with a frame active, SCAN moves instead. -/
def Obligations.HostStepChecksInOrder : Prop :=
  ∀ (cfg : WfConfig) (s : State) (w : Word) (rest : List Word),
    s.fault = .noFault → s.scanActive = false → (s.turn = .hostOrScan ∨ s.toneEn = false) → s.pending = w :: rest →
    agentStep cfg { s with scanActive := true } = scanStep { s with scanActive := true } ∧
    (isLegal w = false →
      agentStep cfg s = .next { s with pending := rest, fault := .illegalCommand, faultCmd := some w }) ∧
    (∀ i, decode w = .ok i → isGated i = true → s.initDone = false →
      agentStep cfg s = .next { s with pending := rest, fault := .notInitialised, faultCmd := some w }) ∧
    (∀ i, decode w = .ok i → (isGated i = false ∨ s.initDone = true) →
      agentStep cfg s = exec i { s with pending := rest } ∧
      ∃ t, exec i { s with pending := rest } = .next t ∧ t.fault = .noFault)

/-- When HOST moves and its next word decodes to i, the machine's step is exec of i on the state with the word taken, and
then the draw of the next turn (log 2). -/
def Obligations.StepRunsTheDecodedWord : Prop :=
  ∀ (s : State) (w : Word) (rest : List Word) (i : Instr),
    s.fault = .noFault → s.scanActive = false → (s.turn = .hostOrScan ∨ s.toneEn = false) → s.pending = w :: rest →
    decode w = .ok i →
    step s = onNext
      (fun t => { t with turn := if t.toneEn then Config.freeTurn t.stepNo else .hostOrScan, stepNo := t.stepNo + 1 })
      (exec i { s with pending := rest })

/-- The word placed by withFetchWord is the one the next step executes, in every state in which HOST may take a command. -/
def Obligations.PlacedWordRunsNext : Prop :=
  ∀ (s : State) (nbits w : Nat) (i : Instr),
    s.fault = .noFault → s.scanActive = false → decodeTableWord nbits w = some i →
    step (s.withFetchWord nbits w) = onNext (reschedule Config.freeTurn) (exec i { s with turn := .hostOrScan })

/-- R151 with R80: while a frame is active every step leaves the pending words, the buffer and all that only HOST writes as
they are, and the frame ends only from SCAN_POS = 8. -/
def Obligations.HostIsHeldDuringAFrame : Prop :=
  ∀ (cfg : WfConfig) (sched : Nat → Turn) (s : State), s.scanActive = true →
    (∀ t, stepWith cfg sched s = .next t →
      HostSame s t ∧ t.buf = s.buf ∧ t.initDone = s.initDone ∧ t.outEn = s.outEn ∧ t.toneEn = s.toneEn ∧
      FaultSame s t ∧ (t.scanActive = false → s.scanPos = 8)) ∧
    (s.fault = .noFault → s.scanPos.toNat ≤ 8 → ∃ t, stepWith cfg sched s = .next t)

/-- R289: HOST and SCAN are never both enabled, and while FAULT = 0 one of them is. -/
def Obligations.HostAndScanNeverBothEnabled : Prop :=
  ∀ s : State, ¬(hostEnabled s = true ∧ scanEnabled s = true) ∧
    (s.fault = .noFault → (hostEnabled s = true ∨ scanEnabled s = true))

/-- Where FAULT = 0 and no agent has a step, the block waits unchanged (the model's choice, log 8); where only TONE is enabled,
it moves whoever's turn it is (log 2, R190). -/
def Obligations.IdleBlockWaitsForHost : Prop :=
  ∀ (cfg : WfConfig) (s : State), s.fault = .noFault → s.scanActive = false → s.program = .external → s.pending = [] →
    (s.toneEn = false → agentStep cfg s = .next s) ∧ (s.toneEn = true → agentStep cfg s = .next (tick cfg s))

/-! ## The scan sequencer (40_display.md section 3) -/

/-- R155: the slot step for SCAN_POS = p selects digit p, shows its entry and advances SCAN_POS, in one step that changes
nothing else. -/
def Obligations.SlotStepShowsOneDigit : Prop :=
  ∀ (s : State) (p : Slot), s.scanPos.toNat = p.toNat →
    scanStep s = .next { s with digSel := some p, segOut := memRead s p, scanPos := BitVec.ofNat 4 (p.toNat + 1) }

/-- R157: the end-of-frame step at SCAN_POS = 8 deselects, darkens and lifts the hold, and changes nothing else. -/
def Obligations.EndOfFrameDarkensAndReleases : Prop :=
  ∀ s : State, s.scanPos = 8 →
    scanStep s = .next { s with digSel := none, segOut := 0x00, scanPos := 0, scanActive := false }

/-- R152: while SCAN_ACTIVE = 1 and FAULT = 0 the block's step, unless TONE has the turn, is the SCAN agent's; the model
stops by name on a SCAN_POS that R38 excludes (the model's choice, log 7). -/
def Obligations.ScanAgentStepsInAFrame : Prop :=
  ∀ (cfg : WfConfig) (s : State), s.scanActive = true → s.fault = .noFault →
    (s.turn = .hostOrScan ∨ s.toneEn = false) →
    agentStep cfg s = scanStep s ∧
    (8 < s.scanPos.toNat → agentStep cfg s = .fault (.scanPosOutOfRange s.scanPos))

/-- R158: a frame passes through (0, b[0]), ..., (7, b[7]), (NONE, 0x00), whatever buffer b it was started with, and then
HOST is free again with SCAN_POS = 0 and the buffer as it was. -/
def Obligations.FrameTraceShowsEveryDigitOnce : Prop :=
  ∀ s : State, s.initDone = true → ∃ t, exec .scan s = .next t ∧
    (∀ p : Slot, ∃ u, scanSteps (p.toNat + 1) t = .next u ∧ selection u = (some p, memRead s p) ∧
      u.scanActive = true) ∧
    scanSteps 9 t = .next { s with digSel := none, segOut := 0x00, scanPos := 0, scanActive := false }

/-- R335: under a fair schedule every frame ends, with the buffer as it was, all lines inactive and no fault. -/
def Obligations.FairScheduleEndsEveryFrame : Prop :=
  ∀ (cfg : WfConfig) (sched : Nat → Turn) (s : State), FairSchedule sched →
    s.fault = .noFault → s.scanActive = true → s.scanPos.toNat ≤ 8 →
    ∃ k t, runWith cfg sched k s = .next t ∧ t.scanActive = false ∧ t.fault = .noFault ∧ t.buf = s.buf ∧
      selection t = (none, 0x00) ∧ t.pending = s.pending

/-! ## The tone sequencer (41_tone.md) -/

/-- R195 with R201: when TONE moves, the step writes CMP with floor(2 * CLOCK_RATE / (f0 * (2k + 1))), exactly and without
truncation, sets CMP_VALID, advances T modulo 768, and changes nothing else. -/
def Obligations.TickProgramsTheCompareValue : Prop :=
  ∀ (cfg : WfConfig) (s : State), s.fault = .noFault → s.toneEn = true → s.turn = .tone →
    ∃ v : BitVec 32,
      v.toNat = 2 * cfg.config.clockRate /
        (cfg.config.noteTable.toList.getD (s.t.toNat / 3 % 32) 0 * (2 * ((s.t.toNat / 384 + 1) % 2) + 1)) ∧
      agentStep cfg s =
        .next { s with cmp := some v, cmpValid := true, t := BitVec.ofNat 10 ((s.t.toNat + 1) % 768) }

/-- R202 with R13: under a well-formed configuration no tick divides by zero and every compare value fits CMP. -/
def Obligations.CompareValuesFitTheRegister : Prop :=
  ∀ (cfg : WfConfig) (t : Nat),
    0 < noteFrequency cfg.config t * (2 * octaveBit t + 1) ∧
    1 ≤ compareAt cfg.config t ∧ compareAt cfg.config t < 2 ^ cfg.config.cmpWidth

/-- R200 with R199: the compare value is floor(CLOCK_RATE / f) for f = f0 * (k + 1/2), over the rationals. -/
def Obligations.CompareValueIsTheExactFloor : Prop :=
  ∀ clockRate f0 k : Nat, 1 ≤ f0 →
    targetFrequency f0 k = (f0 : ℚ) * (2 * k + 1) / 2 ∧
    (compareValue clockRate f0 k : ℤ) = ⌊(clockRate : ℚ) / targetFrequency f0 k⌋

/-- R198 and R207: the factor is 1.5 for t in 0..383 and 0.5 for t in 384..767; at t = 0 and t = 3 the note index is 0 and 1. -/
def Obligations.OctaveFactorAlternates : Prop :=
  (∀ t : Nat, t ≤ 383 → octaveFactor (octaveBit t) = 3 / 2) ∧
  (∀ t : Nat, 384 ≤ t → t ≤ 767 → octaveFactor (octaveBit t) = 1 / 2) ∧
  noteIndex 0 = 0 ∧ octaveFactor (octaveBit 0) = 3 / 2 ∧ noteIndex 3 = 1

/-- R206: 96 is the least period of the note index and 768 the least period of the factor, and the compare value depends
only on t mod 768. -/
def Obligations.TonePeriods : Prop :=
  (∀ t : Nat, noteIndex (t + 96) = noteIndex t) ∧
  (∀ d : Nat, 0 < d → d < 96 → ∃ t : Nat, noteIndex (t + d) ≠ noteIndex t) ∧
  (∀ t : Nat, octaveBit (t + 768) = octaveBit t) ∧
  (∀ d : Nat, 0 < d → d < 768 → ∃ t : Nat, octaveBit (t + d) ≠ octaveBit t) ∧
  ∀ (cfg : WfConfig) (t : Nat), compareAt cfg.config (t % 768) = compareAt cfg.config t

/-- R206 with R195: from T = 0, after n + 1 ticks CMP holds the compare value of an unbounded counter at n, T is
(n + 1) mod 768, and nothing but T, CMP and CMP_VALID has changed. -/
def Obligations.MelodyFollowsAnUnboundedCounter : Prop :=
  ∀ (cfg : WfConfig) (s : State) (n : Nat), s.t = 0 →
    ∃ v : BitVec 32, v.toNat = compareAt cfg.config n ∧
      ticks cfg (n + 1) s = { s with cmp := some v, cmpValid := true, t := BitVec.ofNat 10 ((n + 1) % 768) }

/-- R191 with R81: while TONE_EN = 0 no step of any agent changes T, CMP or CMP_VALID. -/
def Obligations.NoTickBeforeToneStart : Prop :=
  ∀ (cfg : WfConfig) (sched : Nat → Turn) (s t : State), s.toneEn = false → stepWith cfg sched s = .next t → ToneSame s t

/-- R203: while TONE_EN = 1 and CMP_VALID = 1 the generator's frequency is CLOCK_RATE / CMP, which a tick's write makes at
least the target frequency; otherwise there is none. -/
def Obligations.GeneratorFrequencyFollowsCmp : Prop :=
  ∀ (cfg : WfConfig) (s : State),
    (∀ c, s.toneEn = true → s.cmpValid = true → s.cmp = some c →
      outputFrequency cfg s = some ((cfg.config.clockRate : ℚ) / (c.toNat : ℚ))) ∧
    (s.toneEn = false ∨ s.cmpValid = false → outputFrequency cfg s = none) ∧
    (s.toneEn = true → ∃ f, outputFrequency cfg (tick cfg s) = some f ∧
      targetFrequency (noteFrequency cfg.config s.t.toNat) (octaveBit s.t.toNat) ≤ f)

/-- R81: a tick commutes with every command and with every SCAN step; commands and SCAN steps never write the tone state
and a tick never writes anything else. -/
def Obligations.TicksCommuteWithTheDisplay : Prop :=
  ∀ (cfg : WfConfig) (s : State),
    (∀ i : Instr, onNext (tick cfg) (exec i s) = exec i (tick cfg s)) ∧
    onNext (tick cfg) (scanStep s) = scanStep (tick cfg s) ∧
    (∀ (i : Instr) (t : State), exec i s = .next t → ToneSame s t) ∧
    (∀ t, scanStep s = .next t → ToneSame s t) ∧
    DisplaySame s (tick cfg s) ∧ HostSame s (tick cfg s) ∧ FaultSame s (tick cfg s) ∧ TurnSame s (tick cfg s)

/-! ## Frames of the commands -/

/-- R296, HOST's row: a command writes no tone counter, no host counter, no pending word and no scheduling field; only INIT
and WRBUF write memory, and WRBUF only its own byte; only INIT moves the lines or sets OUT_EN and INIT_DONE; only SCAN
touches SCAN_POS and SCAN_ACTIVE; only TONE_START touches TONE_EN; only RDBUF responds; and FAULT changes only by a gated
command before INIT. -/
def Obligations.CommandsWriteOnlyTheirOwnState : Prop :=
  ∀ (i : Instr) (s t : State), exec i s = .next t →
    ToneSame s t ∧ TurnSame s t ∧ t.hostC = s.hostC ∧ t.hostPh = s.hostPh ∧ t.pending = s.pending ∧
    t.program = s.program ∧
    (i ≠ .init → (∀ p v, i ≠ .wrbuf p v) → t.buf = s.buf) ∧
    (∀ p v, i = .wrbuf p v → ∀ a, a ≠ p.toNat → Memory.read t.buf a = Memory.read s.buf a) ∧
    (i ≠ .init → t.outEn = s.outEn ∧ t.initDone = s.initDone ∧ t.digSel = s.digSel ∧ t.segOut = s.segOut) ∧
    (i ≠ .scan → t.scanPos = s.scanPos ∧ t.scanActive = s.scanActive) ∧
    (i ≠ .toneStart → t.toneEn = s.toneEn) ∧
    ((∀ p, i ≠ .rdbuf p) → t.responses = s.responses) ∧
    (isGated i = false ∨ s.initDone = true → FaultSame s t)

/-! ## Faults (60_exceptions.md) -/

/-- R284: with FAULT != 0 no agent has a step; the machine is stuck under that name. -/
def Obligations.FaultedMachineIsStuck : Prop :=
  ∀ s : State, s.fault ≠ .noFault → step s = .fault (.stopped s.fault)

/-- R283 with R291: a step that answers a next state starts unfaulted, and either leaves the fault record alone or records a
code and the accepted word, from outside or of HOST's own program, and changes nothing of the block else: only HOST is past
that word, the counters of its procedures as they were (the model's reading, log 11), and the model's own scheduling fields
move on. -/
def Obligations.FaultsArePreciseAndFirst : Prop :=
  ∀ (cfg : WfConfig) (sched : Nat → Turn) (s t : State), stepWith cfg sched s = .next t →
    s.fault = .noFault ∧
    (FaultSame s t ∨
      (t.fault ≠ .noFault ∧ s.scanActive = false ∧ DisplaySame s t ∧ ToneSame s t ∧ t.toneEn = s.toneEn ∧
        t.responses = s.responses ∧
        ((∃ w, s.pending = w :: t.pending ∧ t.faultCmd = some w ∧ t.program = s.program ∧ t.hostC = s.hostC ∧
            t.hostPh = s.hostPh) ∨
          (s.pending = [] ∧ t.pending = [] ∧ ∃ i u, nextCommand cfg s = some (i, u) ∧ t.faultCmd = some (encode i) ∧
            t.program = u.program ∧ (HostInv cfg s → t.hostC = s.hostC ∧ t.hostPh = s.hostPh)))))

/-! ## Lines (40_display.md section 4, 20_memory.md section 3) -/

/-- R153 and R36: a bit of GA or GB is set exactly for the selected digit, so at most one bit is set across both. -/
def Obligations.DigitSelectIsOneHot : Prop :=
  ∀ s : State,
    (∀ p : Slot, p.toNat ≤ 5 → ((groupA s).getLsbD p.toNat = true ↔ s.digSel = some p)) ∧
    (∀ p : Slot, 6 ≤ p.toNat → ((groupB s).getLsbD (p.toNat - 6) = true ↔ s.digSel = some p)) ∧
    (s.digSel = none → groupA s = 0 ∧ groupB s = 0)

/-- R160 with R77 and R78: the level of every digit-select and segment line. -/
def Obligations.DisplayLineLevels : Prop :=
  ∀ (cfg : WfConfig) (draw : Nat → Nat → Bool) (s : State) (k : Nat) (p : Slot) (i : Fin 8),
    (s.outEn = false → level cfg draw s k (digitLine p) = .undriven ∧ level cfg draw s k (segmentLine i) = .undriven) ∧
    (s.outEn = true →
      level cfg draw s k (digitLine p) =
        (if s.digSel = some p then (if cfg.config.digActiveHigh = true then Level.high else Level.low)
          else (if cfg.config.digActiveHigh = true then Level.low else Level.high)) ∧
      level cfg draw s k (segmentLine i) = (if s.segOut.getLsbD i.val = true then Level.low else Level.high) ∧
      (level cfg draw s k (segmentLine i) = .high ↔ (segDriven s).getLsbD i.val = true))

/-- R204: the audio line is undriven exactly while TONE_EN = 0, and otherwise its level is the draw, whatever CMP holds. -/
def Obligations.AudioLineLevel : Prop :=
  ∀ (cfg : WfConfig) (draw : Nat → Nat → Bool) (s : State) (k : Nat),
    (s.toneEn = false → level cfg draw s k .audio = .undriven) ∧
    (s.toneEn = true → level cfg draw s k .audio = if draw s.stepNo k = true then Level.high else Level.low)

/-- R78 with R13: PIN_MAP is injective, so the pin of each logical line shows that line's level. -/
def Obligations.PinShowsItsLine : Prop :=
  ∀ (cfg : WfConfig) (draw : Nat → Nat → Bool) (s : State) (k : Nat) (line : Line),
    pinLevel cfg draw s k cfg.config.pinMap[lineIndex line] = some (level cfg draw s k line)

/-! ## Host procedures (42_host_software.md) -/

/-- R236 and R237: exactly the logical positions 0..6 are valid, and they map one to one onto the digits other than SKIP, which
PUTC never writes. -/
def Obligations.RendererMapIsABijection : Prop :=
  ∀ cfg : WfConfig,
    (∀ (pos : Nat) (ch v : Byte), Instr.wrbuf (skipDigit cfg) v ∉ putc cfg pos ch) ∧
    (∀ pos : Nat, (∃ p, physPos cfg pos = some p) ↔ pos ≤ 6) ∧
    (∀ (pos pos' : Nat) (p : Slot), physPos cfg pos = some p → physPos cfg pos' = some p → pos = pos') ∧
    (∀ p : Slot, (∃ pos, physPos cfg pos = some p) ↔ p ≠ skipDigit cfg)

/-- R232 to R234: lowercase letters fold to uppercase, and the blank letters and every code that is no digit or letter have
the mask 0x00, under every configuration. -/
def Obligations.FontBlanksAndFolds : Prop :=
  ∀ (cfg : WfConfig) (x : Byte),
    (0x61 ≤ x.toNat → x.toNat ≤ 0x7A → fontMask cfg x = fontMask cfg (x - 0x20)) ∧
    (x ∈ ([0x44, 0x46, 0x4F, 0x51, 0x54, 0x57, 0x58, 0x5A] : List Byte) → fontMask cfg x = 0x00) ∧
    (¬(0x30 ≤ x.toNat ∧ x.toNat ≤ 0x39) → ¬(0x41 ≤ x.toNat ∧ x.toNat ≤ 0x5A) → ¬(0x61 ≤ x.toNat ∧ x.toNat ≤ 0x7A) →
      fontMask cfg x = 0x00)

/-- R235: the 28 drawn glyphs are the configuration's 28 masks, one each. -/
def Obligations.DrawnGlyphsComeFromTheFont : Prop :=
  ∀ (cfg : WfConfig) (i : Fin 28), fontMask cfg (glyphSymbols.getD i.val 0) = cfg.config.font[i]

/-- R238 and R239: after INIT, PUTC at a valid position completes and its entry holds the symbol's mask, every other byte
unchanged; at an invalid position it issues no command. -/
def Obligations.PutcWritesTheGlyph : Prop :=
  ∀ (cfg : WfConfig) (pos : Nat) (ch : Byte) (s : State),
    (pos ≤ 6 → s.initDone = true → ∃ p m, physPos cfg pos = some p ∧
      execAll (putc cfg pos ch) s = .next { s with buf := m } ∧ Memory.read m p.toNat = fontMask cfg ch ∧
      ∀ a, a ≠ p.toNat → Memory.read m a = Memory.read s.buf a) ∧
    (7 ≤ pos → putc cfg pos ch = [])

/-- R240 and R241: after INIT, PUTS completes; the entry of each reached position holds its character's mask, and every
digit it does not reach keeps its value. -/
def Obligations.PutsWritesLeftToRight : Prop :=
  ∀ (cfg : WfConfig) (start : Nat) (text : List Byte) (s : State), s.initDone = true →
    ∃ m, execAll (puts cfg start text) s = .next { s with buf := m } ∧
      (∀ (i : Nat) (p : Slot), i < text.length → physPos cfg (start + i) = some p →
        Memory.read m p.toNat = fontMask cfg (text.getD i 0)) ∧
      (∀ a : Nat, (∀ (i : Nat) (p : Slot), i < text.length → physPos cfg (start + i) = some p → a ≠ p.toNat) →
        Memory.read m a = Memory.read s.buf a)

/-- R244 with R242 and R243: after 50 * n calls from C = 0 the counter is 50 * n and the offset n, for n below L; from any
counter in range the offset stays inside MSG and the next counter stays in range. After INIT the commands of SCROLL_STEP
complete: with o = C div 50, the entry of each position i with o + i below L holds the mask of MSG[o + i], and every other
byte keeps its value; and C advances modulo 50 * L. -/
def Obligations.ScrollOffsetAdvances : Prop :=
  ∀ (cfg : WfConfig) (s : State),
    (∀ n : Nat, n < cfg.config.msgLength → s.hostC = 0 →
      (scrollCalls cfg (50 * n) s).hostC = 50 * n ∧ scrollOffset (scrollCalls cfg (50 * n) s).hostC = n) ∧
    (s.hostC < 50 * cfg.config.msgLength →
      scrollOffset s.hostC < cfg.config.msgLength ∧ (scrollStep cfg s).2.hostC < 50 * cfg.config.msgLength) ∧
    (s.initDone = true → ∃ m, execAll (scrollStep cfg s).1 s = .next { s with buf := m } ∧
      (∀ (i : Nat) (p : Slot), s.hostC / 50 + i < cfg.config.msgLength → physPos cfg i = some p →
        Memory.read m p.toNat = fontMask cfg (cfg.config.msg.getD (s.hostC / 50 + i) 0)) ∧
      (∀ a : Nat, (∀ (i : Nat) (p : Slot), s.hostC / 50 + i < cfg.config.msgLength → physPos cfg i = some p →
        a ≠ p.toNat) → Memory.read m a = Memory.read s.buf a)) ∧
    (scrollStep cfg s).2 = { s with hostC := (s.hostC + 1) % (50 * cfg.config.msgLength) }

/-- R245 and R246: after INIT, WAVE_STEP completes, every entry has exactly its own bit (d + PH div 10) mod 8 set, the eight
bits are a permutation of 0..7, and PH advances modulo 80. -/
def Obligations.WaveIsAPermutation : Prop :=
  ∀ s : State, s.initDone = true → ∃ m, execAll (waveStep s).1 s = .next { s with buf := m } ∧
    (∀ d : Slot, Memory.read m d.toNat = 1#8 <<< ((d.toNat + s.hostPh / 10) % 8)) ∧
    (slots.map (waveSegment (waveRotation s.hostPh))).Perm (List.range 8) ∧
    (waveStep s).2 = { s with hostPh := (s.hostPh + 1) % 80 }

/-- R109: after INIT, CLEAR completes, blanks every entry, and changes nothing else. -/
def Obligations.ClearBlanksOnlyTheBuffer : Prop :=
  ∀ s : State, s.initDone = true → ∃ m, execAll clearCommands s = .next { s with buf := m } ∧
    ∀ p : Slot, Memory.read m p.toNat = 0x00

/-- R108: an assembled WRBUF or RDBUF is the word 0x2000 | (s << 8) | m or 0x3000 | (s << 8), and an operand out of range is
not encoded. -/
def Obligations.AssemblerEncodesInRangeOperands : Prop :=
  ∀ (cfg : WfConfig) (slot mask : Nat),
    (slot < 8 → mask < 256 →
      (assemble cfg (.wrbuf slot mask)).map (List.map encode) = some [BitVec.ofNat 16 (0x2000 + slot * 256 + mask)]) ∧
    (slot < 8 → (assemble cfg (.rdbuf slot)).map (List.map encode) = some [BitVec.ofNat 16 (0x3000 + slot * 256)]) ∧
    (8 ≤ slot → assemble cfg (.wrbuf slot mask) = none ∧ assemble cfg (.rdbuf slot) = none) ∧
    (256 ≤ mask → assemble cfg (.wrbuf slot mask) = none)

/-- R247, R248 and R323: a device whose HOST runs MAIN never faults, never waits and never reads back: HOST always has its next
command, and each step answers a next state that still runs MAIN, with no response received, under every configuration
and every schedule. -/
def Obligations.MainNeverFaults : Prop :=
  ∀ (cfg : WfConfig) (sched : Nat → Turn) (s : State), MainInv s →
    (nextCommand cfg s).isSome = true ∧
    ∃ t, stepWith cfg sched s = .next t ∧ MainInv t ∧ t.responses = s.responses

/-! ## Reset and the invariants -/

/-- R49: the reset values the spec gives. -/
def Obligations.ResetValues : Prop :=
  (∀ p : Slot, memRead State.reset p = 0x00) ∧ State.reset.initDone = false ∧ State.reset.outEn = false ∧
  State.reset.scanActive = false ∧ State.reset.scanPos = 0 ∧ State.reset.digSel = none ∧ State.reset.segOut = 0x00 ∧
  State.reset.toneEn = false ∧ State.reset.t = 0 ∧ State.reset.cmpValid = false ∧ State.reset.cmp = none ∧
  faultBits State.reset.fault = 0 ∧ State.reset.faultCmd = none

/-- R321: right after reset only HOST has a step, and no display line nor the audio line is driven. -/
def Obligations.OnlyHostStepsAfterReset : Prop :=
  hostEnabled State.reset = true ∧ scanEnabled State.reset = false ∧ toneEnabled State.reset = false ∧
  ∀ (cfg : WfConfig) (draw : Nat → Nat → Bool) (k : Nat) (line : Line),
    level cfg draw State.reset k line = .undriven

/-- The reset state meets every invariant, under every configuration. -/
def Obligations.ResetMeetsTheInvariants : Prop :=
  DisplayInv State.reset ∧ FaultInv State.reset ∧ MainInv State.reset ∧
  ∀ cfg : WfConfig, ToneInv cfg State.reset ∧ HostInv cfg State.reset

/-- R40, R41 and R38 are inductive: every step from a state that meets the display invariants leads to one that does. -/
def Obligations.StepKeepsTheDisplayInvariants : Prop :=
  ∀ s t : State, DisplayInv s → step s = .next t → DisplayInv t

/-- R43, R44 and R47 are inductive: every step keeps T in 0..767 and CMP, once written, in range and equal to the compare
value of the last tick. -/
def Obligations.StepKeepsTheToneInvariants : Prop :=
  ∀ s t : State, ToneInv Config.board s → step s = .next t → ToneInv Config.board t

/-- R46 and R280: every step keeps FAULT_CMD the record of a word that raises FAULT's code. -/
def Obligations.StepKeepsTheFaultRecord : Prop :=
  ∀ s t : State, FaultInv s → step s = .next t → FaultInv t

/-- R48: every step keeps the host counters in 0 .. 50*L - 1 and 0..79. And every step keeps the model's own choice of when a
counter is written (log 11, DEDUCED from the end state of P2 in 95_test_vectors.md; R242 and R245 say only that the write
comes after the commands): no unfaulted state stands past an animation step's last command with its counter unwritten. -/
def Obligations.StepKeepsTheHostCounters : Prop :=
  ∀ s t : State, HostInv Config.board s → step s = .next t → HostInv Config.board t

/-- R13: a configuration is refused by name exactly where one of R13's conditions fails: PIN_MAP injective, REMAP_FROM in 0..7,
L at least 1, every NOTE_TABLE entry at least 1, every compare value of either octave bit in 1 .. 2^CMP_WIDTH - 1; or where
one of the two ranges of R12's types fails, which the model checks with them (CLOCK_RATE at least 1, CMP_WIDTH in 1..32;
the model's choice, log 4). Any other configuration runs, and the machine's own step is the run under the board's. -/
def Obligations.IllFormedConfigurationIsRefused : Prop :=
  (∀ (cfg : Config) (sched : Nat → Turn) (s : State),
    (stepUnder cfg sched s = .refused .illFormedConfig ↔
      ¬((∀ i j : Fin 17, cfg.pinMap[i] = cfg.pinMap[j] → i = j) ∧
        cfg.remapFrom ≤ 7 ∧
        1 ≤ cfg.msg.length ∧
        (∀ i : Fin 32, 1 ≤ cfg.noteTable[i]) ∧
        (∀ (i : Fin 32) (k : Nat), k = 0 ∨ k = 1 →
          1 ≤ 2 * cfg.clockRate / (cfg.noteTable[i] * (2 * k + 1)) ∧
          2 * cfg.clockRate / (cfg.noteTable[i] * (2 * k + 1)) ≤ 2 ^ cfg.cmpWidth - 1) ∧
        1 ≤ cfg.clockRate ∧
        1 ≤ cfg.cmpWidth ∧ cfg.cmpWidth ≤ 32)) ∧
    (stepUnder cfg sched s ≠ .refused .illFormedConfig →
      ∃ h : cfg.wf = true, stepUnder cfg sched s = stepWith ⟨cfg, h⟩ sched s)) ∧
  ∀ s : State, step s = stepUnder Config.board.config Config.freeTurn s

/-- R247 with R242, R245 and R230: HOST starts with INIT, TONE_START and SCAN to issue; with no word from outside it issues its
program's commands one by one, the commands of the generator that ANIMATION names after each SCAN; and the step that
takes the last of those writes that generator's counter (with that command, log 11) and has SCAN come next, unless the
command raises a fault. At no other step does C or PH change. -/
def Obligations.MainRunsItsLoopInOrder : Prop :=
  State.reset.program = .issuing [.init, .toneStart, .scan] ∧
  ∀ (cfg : WfConfig) (s : State),
    (s.fault = .noFault → s.scanActive = false → (s.turn = .hostOrScan ∨ s.toneEn = false) → s.pending = [] →
      (∀ i rest, s.program = .issuing (i :: rest) → agentStep cfg s = exec i { s with program := .issuing rest }) ∧
      (s.program = .issuing [] → HostInv cfg s → ∃ i rest,
        (if cfg.config.animation = .scroll then (scrollStep cfg s).1 else (waveStep s).1) = i :: rest ∧
        agentStep cfg s = agentStep cfg { s with program := .calling (i :: rest) }) ∧
      (∀ i j rest, s.program = .calling (i :: j :: rest) →
        agentStep cfg s = exec i { s with program := .calling (j :: rest) }) ∧
      (∀ i, s.program = .calling [i] → (isGated i = false ∨ s.initDone = true) → ∃ t,
        exec i { s with program := .calling [] } = .next t ∧
        agentStep cfg s = .next { t with
          hostC := if cfg.config.animation = .scroll then (s.hostC + 1) % (50 * cfg.config.msgLength) else s.hostC
          hostPh := if cfg.config.animation = .wave then (s.hostPh + 1) % 80 else s.hostPh
          program := .issuing [.scan] }) ∧
      (∀ i, s.program = .calling [i] → isGated i = true → s.initDone = false →
        agentStep cfg s = exec i { s with program := .calling [] })) ∧
    (HostInv cfg s → ∀ (sched : Nat → Turn) (t : State), stepWith cfg sched s = .next t →
      (t.hostC = s.hostC ∧ t.hostPh = s.hostPh) ∨
        (s.scanActive = false ∧ s.pending = [] ∧ t.fault = .noFault ∧ t.program = .issuing [.scan] ∧
          ∃ i, s.program = .calling [i] ∨ (s.program = .issuing [] ∧ (animationStep cfg s).1 = [i])))
end

