-- ==== Sys2Proof/Laws/State.lean ====
section
/-! SUPPORT. One lemma per field per update of the state, each true by rfl: what every named write puts in each field, so that
no later proof unfolds a record update. -/

namespace Sys2Proof.Machine

@[simp] theorem selectDigit_buf (p : Option Slot) (s : State) : (selectDigit p s).buf = s.buf := rfl
@[simp] theorem selectDigit_initDone (p : Option Slot) (s : State) : (selectDigit p s).initDone = s.initDone := rfl
@[simp] theorem selectDigit_outEn (p : Option Slot) (s : State) : (selectDigit p s).outEn = s.outEn := rfl
@[simp] theorem selectDigit_scanActive (p : Option Slot) (s : State) : (selectDigit p s).scanActive = s.scanActive := rfl
@[simp] theorem selectDigit_scanPos (p : Option Slot) (s : State) : (selectDigit p s).scanPos = s.scanPos := rfl
@[simp] theorem selectDigit_digSel (p : Option Slot) (s : State) : (selectDigit p s).digSel = p := rfl
@[simp] theorem selectDigit_segOut (p : Option Slot) (s : State) : (selectDigit p s).segOut = s.segOut := rfl
@[simp] theorem selectDigit_toneEn (p : Option Slot) (s : State) : (selectDigit p s).toneEn = s.toneEn := rfl
@[simp] theorem selectDigit_t (p : Option Slot) (s : State) : (selectDigit p s).t = s.t := rfl
@[simp] theorem selectDigit_cmp (p : Option Slot) (s : State) : (selectDigit p s).cmp = s.cmp := rfl
@[simp] theorem selectDigit_cmpValid (p : Option Slot) (s : State) : (selectDigit p s).cmpValid = s.cmpValid := rfl
@[simp] theorem selectDigit_fault (p : Option Slot) (s : State) : (selectDigit p s).fault = s.fault := rfl
@[simp] theorem selectDigit_faultCmd (p : Option Slot) (s : State) : (selectDigit p s).faultCmd = s.faultCmd := rfl
@[simp] theorem selectDigit_hostC (p : Option Slot) (s : State) : (selectDigit p s).hostC = s.hostC := rfl
@[simp] theorem selectDigit_hostPh (p : Option Slot) (s : State) : (selectDigit p s).hostPh = s.hostPh := rfl
@[simp] theorem selectDigit_pending (p : Option Slot) (s : State) : (selectDigit p s).pending = s.pending := rfl
@[simp] theorem selectDigit_program (p : Option Slot) (s : State) : (selectDigit p s).program = s.program := rfl
@[simp] theorem selectDigit_responses (p : Option Slot) (s : State) : (selectDigit p s).responses = s.responses := rfl
@[simp] theorem selectDigit_turn (p : Option Slot) (s : State) : (selectDigit p s).turn = s.turn := rfl
@[simp] theorem selectDigit_stepNo (p : Option Slot) (s : State) : (selectDigit p s).stepNo = s.stepNo := rfl

@[simp] theorem setSegments_buf (m : Byte) (s : State) : (setSegments m s).buf = s.buf := rfl
@[simp] theorem setSegments_initDone (m : Byte) (s : State) : (setSegments m s).initDone = s.initDone := rfl
@[simp] theorem setSegments_outEn (m : Byte) (s : State) : (setSegments m s).outEn = s.outEn := rfl
@[simp] theorem setSegments_scanActive (m : Byte) (s : State) : (setSegments m s).scanActive = s.scanActive := rfl
@[simp] theorem setSegments_scanPos (m : Byte) (s : State) : (setSegments m s).scanPos = s.scanPos := rfl
@[simp] theorem setSegments_digSel (m : Byte) (s : State) : (setSegments m s).digSel = s.digSel := rfl
@[simp] theorem setSegments_segOut (m : Byte) (s : State) : (setSegments m s).segOut = m := rfl
@[simp] theorem setSegments_toneEn (m : Byte) (s : State) : (setSegments m s).toneEn = s.toneEn := rfl
@[simp] theorem setSegments_t (m : Byte) (s : State) : (setSegments m s).t = s.t := rfl
@[simp] theorem setSegments_cmp (m : Byte) (s : State) : (setSegments m s).cmp = s.cmp := rfl
@[simp] theorem setSegments_cmpValid (m : Byte) (s : State) : (setSegments m s).cmpValid = s.cmpValid := rfl
@[simp] theorem setSegments_fault (m : Byte) (s : State) : (setSegments m s).fault = s.fault := rfl
@[simp] theorem setSegments_faultCmd (m : Byte) (s : State) : (setSegments m s).faultCmd = s.faultCmd := rfl
@[simp] theorem setSegments_hostC (m : Byte) (s : State) : (setSegments m s).hostC = s.hostC := rfl
@[simp] theorem setSegments_hostPh (m : Byte) (s : State) : (setSegments m s).hostPh = s.hostPh := rfl
@[simp] theorem setSegments_pending (m : Byte) (s : State) : (setSegments m s).pending = s.pending := rfl
@[simp] theorem setSegments_program (m : Byte) (s : State) : (setSegments m s).program = s.program := rfl
@[simp] theorem setSegments_responses (m : Byte) (s : State) : (setSegments m s).responses = s.responses := rfl
@[simp] theorem setSegments_turn (m : Byte) (s : State) : (setSegments m s).turn = s.turn := rfl
@[simp] theorem setSegments_stepNo (m : Byte) (s : State) : (setSegments m s).stepNo = s.stepNo := rfl

@[simp] theorem setTone_buf (c : Nat) (s : State) : (setTone c s).buf = s.buf := rfl
@[simp] theorem setTone_initDone (c : Nat) (s : State) : (setTone c s).initDone = s.initDone := rfl
@[simp] theorem setTone_outEn (c : Nat) (s : State) : (setTone c s).outEn = s.outEn := rfl
@[simp] theorem setTone_scanActive (c : Nat) (s : State) : (setTone c s).scanActive = s.scanActive := rfl
@[simp] theorem setTone_scanPos (c : Nat) (s : State) : (setTone c s).scanPos = s.scanPos := rfl
@[simp] theorem setTone_digSel (c : Nat) (s : State) : (setTone c s).digSel = s.digSel := rfl
@[simp] theorem setTone_segOut (c : Nat) (s : State) : (setTone c s).segOut = s.segOut := rfl
@[simp] theorem setTone_toneEn (c : Nat) (s : State) : (setTone c s).toneEn = s.toneEn := rfl
@[simp] theorem setTone_t (c : Nat) (s : State) : (setTone c s).t = s.t := rfl
@[simp] theorem setTone_cmp (c : Nat) (s : State) : (setTone c s).cmp = some (BitVec.ofNat 32 c) := rfl
@[simp] theorem setTone_cmpValid (c : Nat) (s : State) : (setTone c s).cmpValid = true := rfl
@[simp] theorem setTone_fault (c : Nat) (s : State) : (setTone c s).fault = s.fault := rfl
@[simp] theorem setTone_faultCmd (c : Nat) (s : State) : (setTone c s).faultCmd = s.faultCmd := rfl
@[simp] theorem setTone_hostC (c : Nat) (s : State) : (setTone c s).hostC = s.hostC := rfl
@[simp] theorem setTone_hostPh (c : Nat) (s : State) : (setTone c s).hostPh = s.hostPh := rfl
@[simp] theorem setTone_pending (c : Nat) (s : State) : (setTone c s).pending = s.pending := rfl
@[simp] theorem setTone_program (c : Nat) (s : State) : (setTone c s).program = s.program := rfl
@[simp] theorem setTone_responses (c : Nat) (s : State) : (setTone c s).responses = s.responses := rfl
@[simp] theorem setTone_turn (c : Nat) (s : State) : (setTone c s).turn = s.turn := rfl
@[simp] theorem setTone_stepNo (c : Nat) (s : State) : (setTone c s).stepNo = s.stepNo := rfl

@[simp] theorem respond_buf (v : Byte) (s : State) : (respond v s).buf = s.buf := rfl
@[simp] theorem respond_initDone (v : Byte) (s : State) : (respond v s).initDone = s.initDone := rfl
@[simp] theorem respond_outEn (v : Byte) (s : State) : (respond v s).outEn = s.outEn := rfl
@[simp] theorem respond_scanActive (v : Byte) (s : State) : (respond v s).scanActive = s.scanActive := rfl
@[simp] theorem respond_scanPos (v : Byte) (s : State) : (respond v s).scanPos = s.scanPos := rfl
@[simp] theorem respond_digSel (v : Byte) (s : State) : (respond v s).digSel = s.digSel := rfl
@[simp] theorem respond_segOut (v : Byte) (s : State) : (respond v s).segOut = s.segOut := rfl
@[simp] theorem respond_toneEn (v : Byte) (s : State) : (respond v s).toneEn = s.toneEn := rfl
@[simp] theorem respond_t (v : Byte) (s : State) : (respond v s).t = s.t := rfl
@[simp] theorem respond_cmp (v : Byte) (s : State) : (respond v s).cmp = s.cmp := rfl
@[simp] theorem respond_cmpValid (v : Byte) (s : State) : (respond v s).cmpValid = s.cmpValid := rfl
@[simp] theorem respond_fault (v : Byte) (s : State) : (respond v s).fault = s.fault := rfl
@[simp] theorem respond_faultCmd (v : Byte) (s : State) : (respond v s).faultCmd = s.faultCmd := rfl
@[simp] theorem respond_hostC (v : Byte) (s : State) : (respond v s).hostC = s.hostC := rfl
@[simp] theorem respond_hostPh (v : Byte) (s : State) : (respond v s).hostPh = s.hostPh := rfl
@[simp] theorem respond_pending (v : Byte) (s : State) : (respond v s).pending = s.pending := rfl
@[simp] theorem respond_program (v : Byte) (s : State) : (respond v s).program = s.program := rfl
@[simp] theorem respond_responses (v : Byte) (s : State) : (respond v s).responses = s.responses ++ [v] := rfl
@[simp] theorem respond_turn (v : Byte) (s : State) : (respond v s).turn = s.turn := rfl
@[simp] theorem respond_stepNo (v : Byte) (s : State) : (respond v s).stepNo = s.stepNo := rfl

@[simp] theorem raiseFault_buf (code : FaultCode) (w : Word) (s : State) : (raiseFault code w s).buf = s.buf := rfl
@[simp] theorem raiseFault_initDone (code : FaultCode) (w : Word) (s : State) : (raiseFault code w s).initDone = s.initDone := rfl
@[simp] theorem raiseFault_outEn (code : FaultCode) (w : Word) (s : State) : (raiseFault code w s).outEn = s.outEn := rfl
@[simp] theorem raiseFault_scanActive (code : FaultCode) (w : Word) (s : State) : (raiseFault code w s).scanActive = s.scanActive := rfl
@[simp] theorem raiseFault_scanPos (code : FaultCode) (w : Word) (s : State) : (raiseFault code w s).scanPos = s.scanPos := rfl
@[simp] theorem raiseFault_digSel (code : FaultCode) (w : Word) (s : State) : (raiseFault code w s).digSel = s.digSel := rfl
@[simp] theorem raiseFault_segOut (code : FaultCode) (w : Word) (s : State) : (raiseFault code w s).segOut = s.segOut := rfl
@[simp] theorem raiseFault_toneEn (code : FaultCode) (w : Word) (s : State) : (raiseFault code w s).toneEn = s.toneEn := rfl
@[simp] theorem raiseFault_t (code : FaultCode) (w : Word) (s : State) : (raiseFault code w s).t = s.t := rfl
@[simp] theorem raiseFault_cmp (code : FaultCode) (w : Word) (s : State) : (raiseFault code w s).cmp = s.cmp := rfl
@[simp] theorem raiseFault_cmpValid (code : FaultCode) (w : Word) (s : State) : (raiseFault code w s).cmpValid = s.cmpValid := rfl
@[simp] theorem raiseFault_fault (code : FaultCode) (w : Word) (s : State) : (raiseFault code w s).fault = code := rfl
@[simp] theorem raiseFault_faultCmd (code : FaultCode) (w : Word) (s : State) : (raiseFault code w s).faultCmd = some w := rfl
@[simp] theorem raiseFault_hostC (code : FaultCode) (w : Word) (s : State) : (raiseFault code w s).hostC = s.hostC := rfl
@[simp] theorem raiseFault_hostPh (code : FaultCode) (w : Word) (s : State) : (raiseFault code w s).hostPh = s.hostPh := rfl
@[simp] theorem raiseFault_pending (code : FaultCode) (w : Word) (s : State) : (raiseFault code w s).pending = s.pending := rfl
@[simp] theorem raiseFault_program (code : FaultCode) (w : Word) (s : State) : (raiseFault code w s).program = s.program := rfl
@[simp] theorem raiseFault_responses (code : FaultCode) (w : Word) (s : State) : (raiseFault code w s).responses = s.responses := rfl
@[simp] theorem raiseFault_turn (code : FaultCode) (w : Word) (s : State) : (raiseFault code w s).turn = s.turn := rfl
@[simp] theorem raiseFault_stepNo (code : FaultCode) (w : Word) (s : State) : (raiseFault code w s).stepNo = s.stepNo := rfl

@[simp] theorem setScan_buf (pos : BitVec 4) (active : Bool) (s : State) : (setScan pos active s).buf = s.buf := rfl
@[simp] theorem setScan_initDone (pos : BitVec 4) (active : Bool) (s : State) : (setScan pos active s).initDone = s.initDone := rfl
@[simp] theorem setScan_outEn (pos : BitVec 4) (active : Bool) (s : State) : (setScan pos active s).outEn = s.outEn := rfl
@[simp] theorem setScan_scanActive (pos : BitVec 4) (active : Bool) (s : State) : (setScan pos active s).scanActive = active := rfl
@[simp] theorem setScan_scanPos (pos : BitVec 4) (active : Bool) (s : State) : (setScan pos active s).scanPos = pos := rfl
@[simp] theorem setScan_digSel (pos : BitVec 4) (active : Bool) (s : State) : (setScan pos active s).digSel = s.digSel := rfl
@[simp] theorem setScan_segOut (pos : BitVec 4) (active : Bool) (s : State) : (setScan pos active s).segOut = s.segOut := rfl
@[simp] theorem setScan_toneEn (pos : BitVec 4) (active : Bool) (s : State) : (setScan pos active s).toneEn = s.toneEn := rfl
@[simp] theorem setScan_t (pos : BitVec 4) (active : Bool) (s : State) : (setScan pos active s).t = s.t := rfl
@[simp] theorem setScan_cmp (pos : BitVec 4) (active : Bool) (s : State) : (setScan pos active s).cmp = s.cmp := rfl
@[simp] theorem setScan_cmpValid (pos : BitVec 4) (active : Bool) (s : State) : (setScan pos active s).cmpValid = s.cmpValid := rfl
@[simp] theorem setScan_fault (pos : BitVec 4) (active : Bool) (s : State) : (setScan pos active s).fault = s.fault := rfl
@[simp] theorem setScan_faultCmd (pos : BitVec 4) (active : Bool) (s : State) : (setScan pos active s).faultCmd = s.faultCmd := rfl
@[simp] theorem setScan_hostC (pos : BitVec 4) (active : Bool) (s : State) : (setScan pos active s).hostC = s.hostC := rfl
@[simp] theorem setScan_hostPh (pos : BitVec 4) (active : Bool) (s : State) : (setScan pos active s).hostPh = s.hostPh := rfl
@[simp] theorem setScan_pending (pos : BitVec 4) (active : Bool) (s : State) : (setScan pos active s).pending = s.pending := rfl
@[simp] theorem setScan_program (pos : BitVec 4) (active : Bool) (s : State) : (setScan pos active s).program = s.program := rfl
@[simp] theorem setScan_responses (pos : BitVec 4) (active : Bool) (s : State) : (setScan pos active s).responses = s.responses := rfl
@[simp] theorem setScan_turn (pos : BitVec 4) (active : Bool) (s : State) : (setScan pos active s).turn = s.turn := rfl
@[simp] theorem setScan_stepNo (pos : BitVec 4) (active : Bool) (s : State) : (setScan pos active s).stepNo = s.stepNo := rfl

@[simp] theorem setT_buf (v : Nat) (s : State) : (setT v s).buf = s.buf := rfl
@[simp] theorem setT_initDone (v : Nat) (s : State) : (setT v s).initDone = s.initDone := rfl
@[simp] theorem setT_outEn (v : Nat) (s : State) : (setT v s).outEn = s.outEn := rfl
@[simp] theorem setT_scanActive (v : Nat) (s : State) : (setT v s).scanActive = s.scanActive := rfl
@[simp] theorem setT_scanPos (v : Nat) (s : State) : (setT v s).scanPos = s.scanPos := rfl
@[simp] theorem setT_digSel (v : Nat) (s : State) : (setT v s).digSel = s.digSel := rfl
@[simp] theorem setT_segOut (v : Nat) (s : State) : (setT v s).segOut = s.segOut := rfl
@[simp] theorem setT_toneEn (v : Nat) (s : State) : (setT v s).toneEn = s.toneEn := rfl
@[simp] theorem setT_t (v : Nat) (s : State) : (setT v s).t = BitVec.ofNat 10 v := rfl
@[simp] theorem setT_cmp (v : Nat) (s : State) : (setT v s).cmp = s.cmp := rfl
@[simp] theorem setT_cmpValid (v : Nat) (s : State) : (setT v s).cmpValid = s.cmpValid := rfl
@[simp] theorem setT_fault (v : Nat) (s : State) : (setT v s).fault = s.fault := rfl
@[simp] theorem setT_faultCmd (v : Nat) (s : State) : (setT v s).faultCmd = s.faultCmd := rfl
@[simp] theorem setT_hostC (v : Nat) (s : State) : (setT v s).hostC = s.hostC := rfl
@[simp] theorem setT_hostPh (v : Nat) (s : State) : (setT v s).hostPh = s.hostPh := rfl
@[simp] theorem setT_pending (v : Nat) (s : State) : (setT v s).pending = s.pending := rfl
@[simp] theorem setT_program (v : Nat) (s : State) : (setT v s).program = s.program := rfl
@[simp] theorem setT_responses (v : Nat) (s : State) : (setT v s).responses = s.responses := rfl
@[simp] theorem setT_turn (v : Nat) (s : State) : (setT v s).turn = s.turn := rfl
@[simp] theorem setT_stepNo (v : Nat) (s : State) : (setT v s).stepNo = s.stepNo := rfl

@[simp] theorem memWrite_buf (a : Slot) (v : Byte) (s : State) : (memWrite a v s).buf = Memory.write s.buf a.toNat v := rfl
@[simp] theorem memWrite_initDone (a : Slot) (v : Byte) (s : State) : (memWrite a v s).initDone = s.initDone := rfl
@[simp] theorem memWrite_outEn (a : Slot) (v : Byte) (s : State) : (memWrite a v s).outEn = s.outEn := rfl
@[simp] theorem memWrite_scanActive (a : Slot) (v : Byte) (s : State) : (memWrite a v s).scanActive = s.scanActive := rfl
@[simp] theorem memWrite_scanPos (a : Slot) (v : Byte) (s : State) : (memWrite a v s).scanPos = s.scanPos := rfl
@[simp] theorem memWrite_digSel (a : Slot) (v : Byte) (s : State) : (memWrite a v s).digSel = s.digSel := rfl
@[simp] theorem memWrite_segOut (a : Slot) (v : Byte) (s : State) : (memWrite a v s).segOut = s.segOut := rfl
@[simp] theorem memWrite_toneEn (a : Slot) (v : Byte) (s : State) : (memWrite a v s).toneEn = s.toneEn := rfl
@[simp] theorem memWrite_t (a : Slot) (v : Byte) (s : State) : (memWrite a v s).t = s.t := rfl
@[simp] theorem memWrite_cmp (a : Slot) (v : Byte) (s : State) : (memWrite a v s).cmp = s.cmp := rfl
@[simp] theorem memWrite_cmpValid (a : Slot) (v : Byte) (s : State) : (memWrite a v s).cmpValid = s.cmpValid := rfl
@[simp] theorem memWrite_fault (a : Slot) (v : Byte) (s : State) : (memWrite a v s).fault = s.fault := rfl
@[simp] theorem memWrite_faultCmd (a : Slot) (v : Byte) (s : State) : (memWrite a v s).faultCmd = s.faultCmd := rfl
@[simp] theorem memWrite_hostC (a : Slot) (v : Byte) (s : State) : (memWrite a v s).hostC = s.hostC := rfl
@[simp] theorem memWrite_hostPh (a : Slot) (v : Byte) (s : State) : (memWrite a v s).hostPh = s.hostPh := rfl
@[simp] theorem memWrite_pending (a : Slot) (v : Byte) (s : State) : (memWrite a v s).pending = s.pending := rfl
@[simp] theorem memWrite_program (a : Slot) (v : Byte) (s : State) : (memWrite a v s).program = s.program := rfl
@[simp] theorem memWrite_responses (a : Slot) (v : Byte) (s : State) : (memWrite a v s).responses = s.responses := rfl
@[simp] theorem memWrite_turn (a : Slot) (v : Byte) (s : State) : (memWrite a v s).turn = s.turn := rfl
@[simp] theorem memWrite_stepNo (a : Slot) (v : Byte) (s : State) : (memWrite a v s).stepNo = s.stepNo := rfl

@[simp] theorem clearBuf_initDone (s : State) : (clearBuf s).initDone = s.initDone := rfl
@[simp] theorem clearBuf_outEn (s : State) : (clearBuf s).outEn = s.outEn := rfl
@[simp] theorem clearBuf_scanActive (s : State) : (clearBuf s).scanActive = s.scanActive := rfl
@[simp] theorem clearBuf_scanPos (s : State) : (clearBuf s).scanPos = s.scanPos := rfl
@[simp] theorem clearBuf_digSel (s : State) : (clearBuf s).digSel = s.digSel := rfl
@[simp] theorem clearBuf_segOut (s : State) : (clearBuf s).segOut = s.segOut := rfl
@[simp] theorem clearBuf_toneEn (s : State) : (clearBuf s).toneEn = s.toneEn := rfl
@[simp] theorem clearBuf_t (s : State) : (clearBuf s).t = s.t := rfl
@[simp] theorem clearBuf_cmp (s : State) : (clearBuf s).cmp = s.cmp := rfl
@[simp] theorem clearBuf_cmpValid (s : State) : (clearBuf s).cmpValid = s.cmpValid := rfl
@[simp] theorem clearBuf_fault (s : State) : (clearBuf s).fault = s.fault := rfl
@[simp] theorem clearBuf_faultCmd (s : State) : (clearBuf s).faultCmd = s.faultCmd := rfl
@[simp] theorem clearBuf_hostC (s : State) : (clearBuf s).hostC = s.hostC := rfl
@[simp] theorem clearBuf_hostPh (s : State) : (clearBuf s).hostPh = s.hostPh := rfl
@[simp] theorem clearBuf_pending (s : State) : (clearBuf s).pending = s.pending := rfl
@[simp] theorem clearBuf_program (s : State) : (clearBuf s).program = s.program := rfl
@[simp] theorem clearBuf_responses (s : State) : (clearBuf s).responses = s.responses := rfl
@[simp] theorem clearBuf_turn (s : State) : (clearBuf s).turn = s.turn := rfl
@[simp] theorem clearBuf_stepNo (s : State) : (clearBuf s).stepNo = s.stepNo := rfl

@[simp] theorem enableDisplay_buf (s : State) : (enableDisplay s).buf = s.buf := rfl
@[simp] theorem enableDisplay_initDone (s : State) : (enableDisplay s).initDone = true := rfl
@[simp] theorem enableDisplay_outEn (s : State) : (enableDisplay s).outEn = true := rfl
@[simp] theorem enableDisplay_scanActive (s : State) : (enableDisplay s).scanActive = s.scanActive := rfl
@[simp] theorem enableDisplay_scanPos (s : State) : (enableDisplay s).scanPos = s.scanPos := rfl
@[simp] theorem enableDisplay_digSel (s : State) : (enableDisplay s).digSel = s.digSel := rfl
@[simp] theorem enableDisplay_segOut (s : State) : (enableDisplay s).segOut = s.segOut := rfl
@[simp] theorem enableDisplay_toneEn (s : State) : (enableDisplay s).toneEn = s.toneEn := rfl
@[simp] theorem enableDisplay_t (s : State) : (enableDisplay s).t = s.t := rfl
@[simp] theorem enableDisplay_cmp (s : State) : (enableDisplay s).cmp = s.cmp := rfl
@[simp] theorem enableDisplay_cmpValid (s : State) : (enableDisplay s).cmpValid = s.cmpValid := rfl
@[simp] theorem enableDisplay_fault (s : State) : (enableDisplay s).fault = s.fault := rfl
@[simp] theorem enableDisplay_faultCmd (s : State) : (enableDisplay s).faultCmd = s.faultCmd := rfl
@[simp] theorem enableDisplay_hostC (s : State) : (enableDisplay s).hostC = s.hostC := rfl
@[simp] theorem enableDisplay_hostPh (s : State) : (enableDisplay s).hostPh = s.hostPh := rfl
@[simp] theorem enableDisplay_pending (s : State) : (enableDisplay s).pending = s.pending := rfl
@[simp] theorem enableDisplay_program (s : State) : (enableDisplay s).program = s.program := rfl
@[simp] theorem enableDisplay_responses (s : State) : (enableDisplay s).responses = s.responses := rfl
@[simp] theorem enableDisplay_turn (s : State) : (enableDisplay s).turn = s.turn := rfl
@[simp] theorem enableDisplay_stepNo (s : State) : (enableDisplay s).stepNo = s.stepNo := rfl

@[simp] theorem enableTone_buf (s : State) : (enableTone s).buf = s.buf := rfl
@[simp] theorem enableTone_initDone (s : State) : (enableTone s).initDone = s.initDone := rfl
@[simp] theorem enableTone_outEn (s : State) : (enableTone s).outEn = s.outEn := rfl
@[simp] theorem enableTone_scanActive (s : State) : (enableTone s).scanActive = s.scanActive := rfl
@[simp] theorem enableTone_scanPos (s : State) : (enableTone s).scanPos = s.scanPos := rfl
@[simp] theorem enableTone_digSel (s : State) : (enableTone s).digSel = s.digSel := rfl
@[simp] theorem enableTone_segOut (s : State) : (enableTone s).segOut = s.segOut := rfl
@[simp] theorem enableTone_toneEn (s : State) : (enableTone s).toneEn = true := rfl
@[simp] theorem enableTone_t (s : State) : (enableTone s).t = s.t := rfl
@[simp] theorem enableTone_cmp (s : State) : (enableTone s).cmp = s.cmp := rfl
@[simp] theorem enableTone_cmpValid (s : State) : (enableTone s).cmpValid = s.cmpValid := rfl
@[simp] theorem enableTone_fault (s : State) : (enableTone s).fault = s.fault := rfl
@[simp] theorem enableTone_faultCmd (s : State) : (enableTone s).faultCmd = s.faultCmd := rfl
@[simp] theorem enableTone_hostC (s : State) : (enableTone s).hostC = s.hostC := rfl
@[simp] theorem enableTone_hostPh (s : State) : (enableTone s).hostPh = s.hostPh := rfl
@[simp] theorem enableTone_pending (s : State) : (enableTone s).pending = s.pending := rfl
@[simp] theorem enableTone_program (s : State) : (enableTone s).program = s.program := rfl
@[simp] theorem enableTone_responses (s : State) : (enableTone s).responses = s.responses := rfl
@[simp] theorem enableTone_turn (s : State) : (enableTone s).turn = s.turn := rfl
@[simp] theorem enableTone_stepNo (s : State) : (enableTone s).stepNo = s.stepNo := rfl

@[simp] theorem slotStep_buf (p : Slot) (s : State) : (slotStep p s).buf = s.buf := rfl
@[simp] theorem slotStep_initDone (p : Slot) (s : State) : (slotStep p s).initDone = s.initDone := rfl
@[simp] theorem slotStep_outEn (p : Slot) (s : State) : (slotStep p s).outEn = s.outEn := rfl
@[simp] theorem slotStep_scanActive (p : Slot) (s : State) : (slotStep p s).scanActive = s.scanActive := rfl
@[simp] theorem slotStep_scanPos (p : Slot) (s : State) : (slotStep p s).scanPos = p.setWidth 4 + 1 := rfl
@[simp] theorem slotStep_digSel (p : Slot) (s : State) : (slotStep p s).digSel = some p := rfl
@[simp] theorem slotStep_segOut (p : Slot) (s : State) : (slotStep p s).segOut = memRead s p := rfl
@[simp] theorem slotStep_toneEn (p : Slot) (s : State) : (slotStep p s).toneEn = s.toneEn := rfl
@[simp] theorem slotStep_t (p : Slot) (s : State) : (slotStep p s).t = s.t := rfl
@[simp] theorem slotStep_cmp (p : Slot) (s : State) : (slotStep p s).cmp = s.cmp := rfl
@[simp] theorem slotStep_cmpValid (p : Slot) (s : State) : (slotStep p s).cmpValid = s.cmpValid := rfl
@[simp] theorem slotStep_fault (p : Slot) (s : State) : (slotStep p s).fault = s.fault := rfl
@[simp] theorem slotStep_faultCmd (p : Slot) (s : State) : (slotStep p s).faultCmd = s.faultCmd := rfl
@[simp] theorem slotStep_hostC (p : Slot) (s : State) : (slotStep p s).hostC = s.hostC := rfl
@[simp] theorem slotStep_hostPh (p : Slot) (s : State) : (slotStep p s).hostPh = s.hostPh := rfl
@[simp] theorem slotStep_pending (p : Slot) (s : State) : (slotStep p s).pending = s.pending := rfl
@[simp] theorem slotStep_program (p : Slot) (s : State) : (slotStep p s).program = s.program := rfl
@[simp] theorem slotStep_responses (p : Slot) (s : State) : (slotStep p s).responses = s.responses := rfl
@[simp] theorem slotStep_turn (p : Slot) (s : State) : (slotStep p s).turn = s.turn := rfl
@[simp] theorem slotStep_stepNo (p : Slot) (s : State) : (slotStep p s).stepNo = s.stepNo := rfl

@[simp] theorem endOfFrame_buf (s : State) : (endOfFrame s).buf = s.buf := rfl
@[simp] theorem endOfFrame_initDone (s : State) : (endOfFrame s).initDone = s.initDone := rfl
@[simp] theorem endOfFrame_outEn (s : State) : (endOfFrame s).outEn = s.outEn := rfl
@[simp] theorem endOfFrame_scanActive (s : State) : (endOfFrame s).scanActive = false := rfl
@[simp] theorem endOfFrame_scanPos (s : State) : (endOfFrame s).scanPos = 0 := rfl
@[simp] theorem endOfFrame_digSel (s : State) : (endOfFrame s).digSel = none := rfl
@[simp] theorem endOfFrame_segOut (s : State) : (endOfFrame s).segOut = 0x00 := rfl
@[simp] theorem endOfFrame_toneEn (s : State) : (endOfFrame s).toneEn = s.toneEn := rfl
@[simp] theorem endOfFrame_t (s : State) : (endOfFrame s).t = s.t := rfl
@[simp] theorem endOfFrame_cmp (s : State) : (endOfFrame s).cmp = s.cmp := rfl
@[simp] theorem endOfFrame_cmpValid (s : State) : (endOfFrame s).cmpValid = s.cmpValid := rfl
@[simp] theorem endOfFrame_fault (s : State) : (endOfFrame s).fault = s.fault := rfl
@[simp] theorem endOfFrame_faultCmd (s : State) : (endOfFrame s).faultCmd = s.faultCmd := rfl
@[simp] theorem endOfFrame_hostC (s : State) : (endOfFrame s).hostC = s.hostC := rfl
@[simp] theorem endOfFrame_hostPh (s : State) : (endOfFrame s).hostPh = s.hostPh := rfl
@[simp] theorem endOfFrame_pending (s : State) : (endOfFrame s).pending = s.pending := rfl
@[simp] theorem endOfFrame_program (s : State) : (endOfFrame s).program = s.program := rfl
@[simp] theorem endOfFrame_responses (s : State) : (endOfFrame s).responses = s.responses := rfl
@[simp] theorem endOfFrame_turn (s : State) : (endOfFrame s).turn = s.turn := rfl
@[simp] theorem endOfFrame_stepNo (s : State) : (endOfFrame s).stepNo = s.stepNo := rfl

@[simp] theorem tick_buf (cfg : WfConfig) (s : State) : (tick cfg s).buf = s.buf := rfl
@[simp] theorem tick_initDone (cfg : WfConfig) (s : State) : (tick cfg s).initDone = s.initDone := rfl
@[simp] theorem tick_outEn (cfg : WfConfig) (s : State) : (tick cfg s).outEn = s.outEn := rfl
@[simp] theorem tick_scanActive (cfg : WfConfig) (s : State) : (tick cfg s).scanActive = s.scanActive := rfl
@[simp] theorem tick_scanPos (cfg : WfConfig) (s : State) : (tick cfg s).scanPos = s.scanPos := rfl
@[simp] theorem tick_digSel (cfg : WfConfig) (s : State) : (tick cfg s).digSel = s.digSel := rfl
@[simp] theorem tick_segOut (cfg : WfConfig) (s : State) : (tick cfg s).segOut = s.segOut := rfl
@[simp] theorem tick_toneEn (cfg : WfConfig) (s : State) : (tick cfg s).toneEn = s.toneEn := rfl
@[simp] theorem tick_t (cfg : WfConfig) (s : State) : (tick cfg s).t = BitVec.ofNat 10 (nextTick s.t.toNat) := rfl
@[simp] theorem tick_cmp (cfg : WfConfig) (s : State) : (tick cfg s).cmp = some (BitVec.ofNat 32 (compareAt cfg.config s.t.toNat)) := rfl
@[simp] theorem tick_cmpValid (cfg : WfConfig) (s : State) : (tick cfg s).cmpValid = true := rfl
@[simp] theorem tick_fault (cfg : WfConfig) (s : State) : (tick cfg s).fault = s.fault := rfl
@[simp] theorem tick_faultCmd (cfg : WfConfig) (s : State) : (tick cfg s).faultCmd = s.faultCmd := rfl
@[simp] theorem tick_hostC (cfg : WfConfig) (s : State) : (tick cfg s).hostC = s.hostC := rfl
@[simp] theorem tick_hostPh (cfg : WfConfig) (s : State) : (tick cfg s).hostPh = s.hostPh := rfl
@[simp] theorem tick_pending (cfg : WfConfig) (s : State) : (tick cfg s).pending = s.pending := rfl
@[simp] theorem tick_program (cfg : WfConfig) (s : State) : (tick cfg s).program = s.program := rfl
@[simp] theorem tick_responses (cfg : WfConfig) (s : State) : (tick cfg s).responses = s.responses := rfl
@[simp] theorem tick_turn (cfg : WfConfig) (s : State) : (tick cfg s).turn = s.turn := rfl
@[simp] theorem tick_stepNo (cfg : WfConfig) (s : State) : (tick cfg s).stepNo = s.stepNo := rfl

@[simp] theorem reschedule_buf (sched : Nat → Turn) (s : State) : (reschedule sched s).buf = s.buf := rfl
@[simp] theorem reschedule_initDone (sched : Nat → Turn) (s : State) : (reschedule sched s).initDone = s.initDone := rfl
@[simp] theorem reschedule_outEn (sched : Nat → Turn) (s : State) : (reschedule sched s).outEn = s.outEn := rfl
@[simp] theorem reschedule_scanActive (sched : Nat → Turn) (s : State) : (reschedule sched s).scanActive = s.scanActive := rfl
@[simp] theorem reschedule_scanPos (sched : Nat → Turn) (s : State) : (reschedule sched s).scanPos = s.scanPos := rfl
@[simp] theorem reschedule_digSel (sched : Nat → Turn) (s : State) : (reschedule sched s).digSel = s.digSel := rfl
@[simp] theorem reschedule_segOut (sched : Nat → Turn) (s : State) : (reschedule sched s).segOut = s.segOut := rfl
@[simp] theorem reschedule_toneEn (sched : Nat → Turn) (s : State) : (reschedule sched s).toneEn = s.toneEn := rfl
@[simp] theorem reschedule_t (sched : Nat → Turn) (s : State) : (reschedule sched s).t = s.t := rfl
@[simp] theorem reschedule_cmp (sched : Nat → Turn) (s : State) : (reschedule sched s).cmp = s.cmp := rfl
@[simp] theorem reschedule_cmpValid (sched : Nat → Turn) (s : State) : (reschedule sched s).cmpValid = s.cmpValid := rfl
@[simp] theorem reschedule_fault (sched : Nat → Turn) (s : State) : (reschedule sched s).fault = s.fault := rfl
@[simp] theorem reschedule_faultCmd (sched : Nat → Turn) (s : State) : (reschedule sched s).faultCmd = s.faultCmd := rfl
@[simp] theorem reschedule_hostC (sched : Nat → Turn) (s : State) : (reschedule sched s).hostC = s.hostC := rfl
@[simp] theorem reschedule_hostPh (sched : Nat → Turn) (s : State) : (reschedule sched s).hostPh = s.hostPh := rfl
@[simp] theorem reschedule_pending (sched : Nat → Turn) (s : State) : (reschedule sched s).pending = s.pending := rfl
@[simp] theorem reschedule_program (sched : Nat → Turn) (s : State) : (reschedule sched s).program = s.program := rfl
@[simp] theorem reschedule_responses (sched : Nat → Turn) (s : State) : (reschedule sched s).responses = s.responses := rfl
@[simp] theorem reschedule_turn (sched : Nat → Turn) (s : State) : (reschedule sched s).turn = if s.toneEn then sched s.stepNo else .hostOrScan := rfl
@[simp] theorem reschedule_stepNo (sched : Nat → Turn) (s : State) : (reschedule sched s).stepNo = s.stepNo + 1 := rfl

@[simp] theorem issueWords_buf (ws : List Word) (s : State) : (issueWords ws s).buf = s.buf := rfl
@[simp] theorem issueWords_initDone (ws : List Word) (s : State) : (issueWords ws s).initDone = s.initDone := rfl
@[simp] theorem issueWords_outEn (ws : List Word) (s : State) : (issueWords ws s).outEn = s.outEn := rfl
@[simp] theorem issueWords_scanActive (ws : List Word) (s : State) : (issueWords ws s).scanActive = s.scanActive := rfl
@[simp] theorem issueWords_scanPos (ws : List Word) (s : State) : (issueWords ws s).scanPos = s.scanPos := rfl
@[simp] theorem issueWords_digSel (ws : List Word) (s : State) : (issueWords ws s).digSel = s.digSel := rfl
@[simp] theorem issueWords_segOut (ws : List Word) (s : State) : (issueWords ws s).segOut = s.segOut := rfl
@[simp] theorem issueWords_toneEn (ws : List Word) (s : State) : (issueWords ws s).toneEn = s.toneEn := rfl
@[simp] theorem issueWords_t (ws : List Word) (s : State) : (issueWords ws s).t = s.t := rfl
@[simp] theorem issueWords_cmp (ws : List Word) (s : State) : (issueWords ws s).cmp = s.cmp := rfl
@[simp] theorem issueWords_cmpValid (ws : List Word) (s : State) : (issueWords ws s).cmpValid = s.cmpValid := rfl
@[simp] theorem issueWords_fault (ws : List Word) (s : State) : (issueWords ws s).fault = s.fault := rfl
@[simp] theorem issueWords_faultCmd (ws : List Word) (s : State) : (issueWords ws s).faultCmd = s.faultCmd := rfl
@[simp] theorem issueWords_hostC (ws : List Word) (s : State) : (issueWords ws s).hostC = s.hostC := rfl
@[simp] theorem issueWords_hostPh (ws : List Word) (s : State) : (issueWords ws s).hostPh = s.hostPh := rfl
@[simp] theorem issueWords_pending (ws : List Word) (s : State) : (issueWords ws s).pending = s.pending ++ ws := rfl
@[simp] theorem issueWords_program (ws : List Word) (s : State) : (issueWords ws s).program = s.program := rfl
@[simp] theorem issueWords_responses (ws : List Word) (s : State) : (issueWords ws s).responses = s.responses := rfl
@[simp] theorem issueWords_turn (ws : List Word) (s : State) : (issueWords ws s).turn = s.turn := rfl
@[simp] theorem issueWords_stepNo (ws : List Word) (s : State) : (issueWords ws s).stepNo = s.stepNo := rfl

end Sys2Proof.Machine
end

