-- ==== Sys2Proof/Laws/Memory.lean ====
section
/-! SUPPORT. The laws of the Display Buffer as memory: a read after a write, the canonical form kept by every memory
operation, and that equal canonical buffers are equal lists. -/

namespace Sys2Proof.Machine

theorem read_erase_self (m : Memory) (a : Nat) : Memory.read (Memory.erase m a) a = 0 := by
  induction m with
  | nil => rfl
  | cons cell rest ih =>
    obtain ⟨b, v⟩ := cell
    by_cases h : b = a
    · simpa [Memory.erase, h] using ih
    · have h' : ¬ a = b := fun e => h e.symm
      simpa [Memory.erase, Memory.read, h, h'] using ih

theorem read_erase_other (m : Memory) {a c : Nat} (hc : c ≠ a) : Memory.read (Memory.erase m a) c = Memory.read m c := by
  induction m with
  | nil => rfl
  | cons cell rest ih =>
    obtain ⟨b, v⟩ := cell
    by_cases h : b = a
    · subst h
      simpa [Memory.erase, Memory.read, hc] using ih
    · by_cases hcb : c = b
      · subst hcb; simp [Memory.erase, Memory.read, h]
      · simpa [Memory.erase, Memory.read, h, hcb] using ih

theorem read_insert_self (m : Memory) (a : Nat) (v : Byte) (h : ∀ cell ∈ m, cell.1 ≠ a) :
    Memory.read (Memory.insert m a v) a = v := by
  induction m with
  | nil => simp [Memory.insert, Memory.read]
  | cons cell rest ih =>
    obtain ⟨b, u⟩ := cell
    have hb : a ≠ b := fun e => h _ (List.mem_cons_self ..) e.symm
    have ih' := ih fun c hc => h c (List.mem_cons_of_mem _ hc)
    by_cases hlt : a < b
    · simp [Memory.insert, Memory.read, hlt]
    · simp [Memory.insert, Memory.read, hlt, hb, ih']

theorem read_insert_other (m : Memory) {a c : Nat} (v : Byte) (hc : c ≠ a) :
    Memory.read (Memory.insert m a v) c = Memory.read m c := by
  induction m with
  | nil => simp [Memory.insert, Memory.read, hc]
  | cons cell rest ih =>
    obtain ⟨b, u⟩ := cell
    by_cases hlt : a < b
    · simp [Memory.insert, Memory.read, hlt, hc]
    · by_cases hcb : c = b <;> simp [Memory.insert, Memory.read, hlt, hcb, ih]

theorem mem_erase {m : Memory} {a : Nat} : ∀ cell ∈ Memory.erase m a, cell.1 ≠ a := by
  intro cell h
  simpa [Memory.erase] using (List.mem_filter.mp h).2

/-- What a write leaves at any address: the byte written at its own, and what was there at every other. -/
theorem read_write (m : Memory) (a c : Nat) (v : Byte) :
    Memory.read (Memory.write m a v) c = if c = a then v else Memory.read m c := by
  unfold Memory.write
  by_cases hv : v = 0
  · subst hv
    by_cases hc : c = a
    · subst hc; simpa using read_erase_self m c
    · simpa [hc] using read_erase_other m hc
  · rw [if_neg hv]
    by_cases hc : c = a
    · subst hc; simpa using read_insert_self _ c v mem_erase
    · simpa [hc] using (read_insert_other (Memory.erase m a) v hc).trans (read_erase_other m hc)

theorem wfFrom_mono {m : Memory} {lo lo' : Nat} (hle : lo' ≤ lo) (h : Memory.wfFrom lo m = true) :
    Memory.wfFrom lo' m = true := by
  cases m with
  | nil => rfl
  | cons cell rest =>
    obtain ⟨b, v⟩ := cell
    simp only [Memory.wfFrom, Bool.and_eq_true, decide_eq_true_eq] at h ⊢
    exact ⟨⟨⟨hle.trans h.1.1.1, h.1.1.2⟩, h.1.2⟩, h.2⟩

theorem wfFrom_erase {m : Memory} {lo a : Nat} (h : Memory.wfFrom lo m = true) :
    Memory.wfFrom lo (Memory.erase m a) = true := by
  induction m generalizing lo with
  | nil => rfl
  | cons cell rest ih =>
    obtain ⟨b, v⟩ := cell
    simp only [Memory.wfFrom, Bool.and_eq_true, decide_eq_true_eq] at h
    by_cases hb : b = a
    · have : Memory.erase ((b, v) :: rest) a = Memory.erase rest a := by simp [Memory.erase, hb]
      rw [this]
      exact wfFrom_mono (by omega) (ih h.2)
    · have : Memory.erase ((b, v) :: rest) a = (b, v) :: Memory.erase rest a := by simp [Memory.erase, hb]
      rw [this]
      simp only [Memory.wfFrom, Bool.and_eq_true, decide_eq_true_eq]
      exact ⟨h.1, ih h.2⟩

theorem wfFrom_insert {m : Memory} {lo a : Nat} {v : Byte} (h : Memory.wfFrom lo m = true) (hlo : lo ≤ a)
    (ha : a < nDigits) (hv : v ≠ 0) (hm : ∀ cell ∈ m, cell.1 ≠ a) :
    Memory.wfFrom lo (Memory.insert m a v) = true := by
  induction m generalizing lo with
  | nil => simpa [Memory.insert, Memory.wfFrom, hlo, ha] using hv
  | cons cell rest ih =>
    obtain ⟨b, u⟩ := cell
    simp only [Memory.wfFrom, Bool.and_eq_true, decide_eq_true_eq] at h
    have hb : b ≠ a := hm _ (List.mem_cons_self ..)
    by_cases hlt : a < b
    · simp only [Memory.insert, if_pos hlt, Memory.wfFrom, Bool.and_eq_true, decide_eq_true_eq]
      exact ⟨⟨⟨hlo, ha⟩, hv⟩, ⟨⟨by omega, h.1.1.2⟩, h.1.2⟩, h.2⟩
    · simp only [Memory.insert, if_neg hlt, Memory.wfFrom, Bool.and_eq_true, decide_eq_true_eq]
      exact ⟨h.1, ih h.2 (by omega) fun c hc => hm c (List.mem_cons_of_mem _ hc)⟩

/-- A write keeps the canonical form. -/
theorem wf_write {m : Memory} {a : Nat} (v : Byte) (h : Memory.wf m = true) (ha : a < nDigits) :
    Memory.wf (Memory.write m a v) = true := by
  unfold Memory.write Memory.wf
  by_cases hv : v = 0
  · rw [if_pos hv]
    exact wfFrom_erase h
  · rw [if_neg hv]
    exact wfFrom_insert (wfFrom_erase h) (Nat.zero_le _) ha hv mem_erase

theorem read_of_lt_wfFrom {m : Memory} {lo a : Nat} (h : Memory.wfFrom lo m = true) (ha : a < lo) :
    Memory.read m a = 0 := by
  induction m generalizing lo with
  | nil => rfl
  | cons cell rest ih =>
    obtain ⟨b, v⟩ := cell
    simp only [Memory.wfFrom, Bool.and_eq_true, decide_eq_true_eq] at h
    have hab : a ≠ b := by omega
    simpa [Memory.read, hab] using ih h.2 (by omega)

theorem read_of_ge_wfFrom {m : Memory} {lo a : Nat} (h : Memory.wfFrom lo m = true) (ha : 8 ≤ a) :
    Memory.read m a = 0 := by
  induction m generalizing lo with
  | nil => rfl
  | cons cell rest ih =>
    obtain ⟨b, v⟩ := cell
    simp only [Memory.wfFrom, Bool.and_eq_true, decide_eq_true_eq] at h
    have hb : b < 8 := h.1.1.2
    have hab : a ≠ b := by omega
    simpa [Memory.read, hab] using ih h.2

/-- A canonical buffer lists nothing at addresses that do not exist (R70). -/
theorem read_of_ge {m : Memory} (h : Memory.wf m = true) {a : Nat} (ha : 8 ≤ a) : Memory.read m a = 0 :=
  read_of_ge_wfFrom h ha

theorem ext_of_wfFrom {m n : Memory} {lo : Nat} (hm : Memory.wfFrom lo m = true) (hn : Memory.wfFrom lo n = true)
    (h : ∀ a, Memory.read m a = Memory.read n a) : m = n := by
  induction m generalizing n lo with
  | nil =>
    cases n with
    | nil => rfl
    | cons cell rest =>
      obtain ⟨b, v⟩ := cell
      simp only [Memory.wfFrom, Bool.and_eq_true, decide_eq_true_eq] at hn
      have := h b
      simp [Memory.read] at this
      exact absurd this.symm hn.1.2
  | cons cell rest ih =>
    obtain ⟨b, v⟩ := cell
    simp only [Memory.wfFrom, Bool.and_eq_true, decide_eq_true_eq] at hm
    cases n with
    | nil =>
      have := h b
      simp [Memory.read] at this
      exact absurd this hm.1.2
    | cons cell' rest' =>
      obtain ⟨b', v'⟩ := cell'
      simp only [Memory.wfFrom, Bool.and_eq_true, decide_eq_true_eq] at hn
      have hbb : b = b' := by
        rcases Nat.lt_trichotomy b b' with hlt | heq | hgt
        · have h1 := h b
          rw [show Memory.read ((b', v') :: rest') b = Memory.read rest' b by simp [Memory.read, hlt.ne],
            read_of_lt_wfFrom hn.2 (by omega)] at h1
          simp [Memory.read] at h1
          exact absurd h1 hm.1.2
        · exact heq
        · have h1 := h b'
          rw [show Memory.read ((b, v) :: rest) b' = Memory.read rest b' by simp [Memory.read, hgt.ne],
            read_of_lt_wfFrom hm.2 (by omega)] at h1
          simp [Memory.read] at h1
          exact absurd h1.symm hn.1.2
      subst hbb
      have hv : v = v' := by simpa [Memory.read] using h b
      subst hv
      congr 1
      refine ih hm.2 hn.2 fun a => ?_
      by_cases hab : a < b + 1
      · rw [read_of_lt_wfFrom hm.2 hab, read_of_lt_wfFrom hn.2 hab]
      · have hne : a ≠ b := by omega
        simpa [Memory.read, hne] using h a

/-- Equal canonical buffers are equal data. -/
theorem ext_of_wf {m n : Memory} (hm : Memory.wf m = true) (hn : Memory.wf n = true)
    (h : ∀ a, Memory.read m a = Memory.read n a) : m = n := ext_of_wfFrom hm hn h

/-- Everything a MemWrite can do to the reads of the buffer. -/
theorem memRead_memWrite (a p : Slot) (v : Byte) (s : State) :
    memRead (memWrite a v s) p = if p = a then v else memRead s p := by
  simp [memRead, read_write, BitVec.toNat_inj]

/-- A MemWrite keeps the canonical form. -/
theorem memWrite_wf (a : Slot) (v : Byte) {s : State} (h : Memory.wf s.buf = true) :
    Memory.wf (memWrite a v s).buf = true := wf_write v h a.isLt

/-- The state a run of MemWrites leaves differs only in its buffer. -/
theorem clearBuf_eq (s : State) : clearBuf s = { s with buf := (clearBuf s).buf } := rfl

/-- INIT's clearing leaves every entry 0x00. -/
theorem memRead_clearBuf (s : State) (p : Slot) : memRead (clearBuf s) p = 0 := by
  simp only [clearBuf, slots, List.foldl_cons, List.foldl_nil, memRead_memWrite]
  have : ∀ p : Slot, p = 7 ∨ p = 6 ∨ p = 5 ∨ p = 4 ∨ p = 3 ∨ p = 2 ∨ p = 1 ∨ p = 0 := by decide
  rcases this p with h | h | h | h | h | h | h | h <;> subst h <;> rfl

/-- INIT's clearing keeps the canonical form. -/
theorem clearBuf_wf {s : State} (h : Memory.wf s.buf = true) : Memory.wf (clearBuf s).buf = true := by
  simp only [clearBuf, slots, List.foldl_cons, List.foldl_nil]
  iterate 8 apply memWrite_wf
  exact h

end Sys2Proof.Machine
end

