-- ==== Sys2Proof/Laws/Commands.lean ====
section
/-! SUPPORT. What the shared operations of the commands can do: the gate, a command as a whole, a list of commands, and the
facts about fields that no command touches. -/

namespace Sys2Proof.Machine

@[simp] theorem onNext_next (f : State → State) (s : State) : onNext f (.next s) = .next (f s) := rfl

/-- A changed next state comes from a next state. -/
theorem onNext_eq_next {f : State → State} {o : Outcome} {t : State} (h : onNext f o = .next t) :
    ∃ u, o = .next u ∧ t = f u := by
  cases o with
  | next u => exact ⟨u, rfl, (Host.Outcome.next.inj h).symm⟩
  | fault r => cases h
  | refused r => cases h

/-- The gate, open: the command has its effect. -/
theorem gated_ready (i : Instr) (effect : State → State) {s : State} (h : s.initDone = true) :
    gated i effect s = .next (effect s) := by simp [gated, h]

/-- The gate, shut: the command only records NOT_INITIALISED. -/
theorem gated_shut (i : Instr) (effect : State → State) {s : State} (h : s.initDone = false) :
    gated i effect s = .next (raiseFault .notInitialised (encode i) s) := by simp [gated, h]

/-- Everything the gate can do. -/
theorem gated_cases {i : Instr} {effect : State → State} {s t : State} (h : gated i effect s = .next t) :
    (s.initDone = true ∧ t = effect s) ∨
      (s.initDone = false ∧ t = raiseFault .notInitialised (encode i) s) := by
  cases hd : s.initDone
  · rw [gated_shut i effect hd] at h
    exact .inr ⟨rfl, (Host.Outcome.next.inj h).symm⟩
  · rw [gated_ready i effect hd] at h
    exact .inl ⟨rfl, (Host.Outcome.next.inj h).symm⟩

/-- The effect of a command that the gate lets through. -/
def effectOf : Instr → State → State
  | .nop, s => s
  | .init, s => setSegments 0x00 (selectDigit none (enableDisplay (clearBuf s)))
  | .wrbuf slot mask, s => memWrite slot mask s
  | .rdbuf slot, s => respond (memRead s slot) s
  | .scan, s => setScan 0 true s
  | .toneStart, s => enableTone s

/-- A command the gate lets through answers its effect. -/
theorem exec_ready {i : Instr} {s : State} (h : isGated i = false ∨ s.initDone = true) :
    exec i s = .next (effectOf i s) := by
  cases i <;> simp [isGated] at h <;>
    first
      | rfl
      | exact gated_ready _ _ h

/-- A command the gate stops answers the fault record. -/
theorem exec_shut {i : Instr} {s : State} (hg : isGated i = true) (h : s.initDone = false) :
    exec i s = .next (raiseFault .notInitialised (encode i) s) := by
  cases i <;> simp [isGated] at hg <;> exact gated_shut _ _ h

/-- Everything a command can do: its effect, or the fault record of a gated command before INIT. -/
theorem exec_cases (i : Instr) (s : State) :
    ((isGated i = false ∨ s.initDone = true) ∧ exec i s = .next (effectOf i s)) ∨
      (isGated i = true ∧ s.initDone = false ∧ exec i s = .next (raiseFault .notInitialised (encode i) s)) := by
  cases hg : isGated i
  · exact .inl ⟨.inl rfl, exec_ready (.inl hg)⟩
  · cases hd : s.initDone
    · exact .inr ⟨rfl, rfl, exec_shut hg hd⟩
    · exact .inl ⟨.inr rfl, exec_ready (.inr hd)⟩

theorem execAll_cons_of_next {i : Instr} {rest : List Instr} {s t : State} (h : exec i s = .next t) :
    execAll (i :: rest) s = execAll rest t := by simp [execAll, h]

/-- A run of two lists of commands is the runs of the two. -/
theorem execAll_append_of_next {xs ys : List Instr} {s t : State} (h : execAll xs s = .next t) :
    execAll (xs ++ ys) s = execAll ys t := by
  induction xs generalizing s with
  | nil => cases h; rfl
  | cons i rest ih =>
    simp only [List.cons_append, execAll] at h ⊢
    cases he : exec i s with
    | next u => simp only [he] at h ⊢; exact ih h
    | fault r => simp [he] at h
    | refused r => simp [he] at h

/-- A run of buffer writes after INIT changes only the buffer. -/
theorem execAll_wrbufs (ps : List (Slot × Byte)) {s : State} (h : s.initDone = true) :
    execAll (ps.map fun p => .wrbuf p.1 p.2) s =
      .next { s with buf := (ps.foldl (fun m p => Memory.write m p.1.toNat p.2) s.buf) } := by
  induction ps generalizing s with
  | nil => rfl
  | cons p rest ih =>
    have hx : exec (.wrbuf p.1 p.2) s = .next (memWrite p.1 p.2 s) := exec_ready (.inr h)
    rw [List.map_cons, execAll_cons_of_next hx, ih (s := memWrite p.1 p.2 s) h]
    rfl

end Sys2Proof.Machine
end

