-- ==== Sys2Proof/Laws/Agents.lean ====
section
/-! SUPPORT. What the agents can do: the SCAN step, HOST's next word, the HOST step, and one step of the whole block, each as
one lemma that lists every case. -/

namespace Sys2Proof.Machine

theorem scanStep_slot {s : State} (h : s.scanPos.toNat < 8) :
    scanStep s = .next (slotStep (s.scanPos.setWidth 3) s) := by simp [scanStep, h]

theorem scanStep_end {s : State} (h : s.scanPos.toNat = 8) : scanStep s = .next (endOfFrame s) := by
  simp [scanStep, h]

/-- Everything a SCAN step can do. -/
theorem scanStep_cases {s t : State} (h : scanStep s = .next t) :
    (s.scanPos.toNat < 8 ∧ t = slotStep (s.scanPos.setWidth 3) s) ∨ (s.scanPos.toNat = 8 ∧ t = endOfFrame s) := by
  unfold scanStep at h
  split at h
  · exact .inl ⟨‹_›, (Host.Outcome.next.inj h).symm⟩
  · split at h
    · exact .inr ⟨‹_›, (Host.Outcome.next.inj h).symm⟩
    · cases h

/-- SCAN_POS after a slot step, as a number. -/
theorem slotPos_toNat {pos : BitVec 4} (h : pos.toNat < 8) :
    ((pos.setWidth 3).setWidth 4 + 1 : BitVec 4).toNat = pos.toNat + 1 := by
  simp; omega

/-- An animation step advances its own counter and writes nothing else (R48, R242, R245). -/
theorem animationStep_state (cfg : WfConfig) (s : State) :
    (animationStep cfg s).2 = { s with
      hostC := if cfg.config.animation = .scroll then nextC cfg s.hostC else s.hostC
      hostPh := if cfg.config.animation = .wave then nextPh s.hostPh else s.hostPh } := by
  cases ha : cfg.config.animation <;> simp [animationStep, ha, scrollStep, waveStep]

/-- Everything HOST's own program can do to come by its next command. -/
theorem nextCommand_cases {cfg : WfConfig} {s u : State} {i : Instr} (h : nextCommand cfg s = some (i, u)) :
    (∃ rest, s.program = .issuing (i :: rest) ∧ u = { s with program := .issuing rest }) ∨
      (∃ rest, s.program = .issuing [] ∧ (animationStep cfg s).1 = i :: rest ∧ u = { s with program := .calling rest }) ∨
      (∃ rest, s.program = .calling (i :: rest) ∧ u = { s with program := .calling rest }) ∨
      ((s.program = .calling [] ∨ (s.program = .issuing [] ∧ (animationStep cfg s).1 = [])) ∧ i = .scan ∧
        u = { (animationStep cfg s).2 with program := .issuing [] }) := by
  unfold nextCommand at h
  split at h
  · cases h
  · rename_i j rest hp
    cases h
    exact .inl ⟨rest, hp, rfl⟩
  · rename_i hp
    cases hc : (animationStep cfg s).1 with
    | nil =>
      rw [hc] at h
      cases h
      exact .inr (.inr (.inr ⟨.inr ⟨hp, rfl⟩, rfl, rfl⟩))
    | cons j rest =>
      rw [hc] at h
      cases h
      exact .inr (.inl ⟨rest, hp, rfl, rfl⟩)
  · rename_i commands hp
    cases commands with
    | nil =>
      cases h
      exact .inr (.inr (.inr ⟨.inl hp, rfl, rfl⟩))
    | cons j rest =>
      cases h
      exact .inr (.inr (.inl ⟨rest, hp, rfl⟩))

/-- Coming by the next command touches nothing but HOST's own counters and program. -/
theorem nextCommand_block {cfg : WfConfig} {s u : State} {i : Instr} (h : nextCommand cfg s = some (i, u)) :
    u = { s with hostC := u.hostC, hostPh := u.hostPh, program := u.program } := by
  obtain ⟨_, _, rfl⟩ | ⟨_, _, _, rfl⟩ | ⟨_, _, rfl⟩ | ⟨_, _, rfl⟩ := nextCommand_cases h <;>
    simp [animationStep_state]

/-- Everything the end of a HOST step can do to HOST's own state: after an animation step's last command, unless it raised a
fault, the counter is written and SCAN comes next; otherwise nothing. -/
theorem endCall_cases (cfg : WfConfig) (s : State) :
    (s.program = .calling [] ∧ s.fault = .noFault ∧ endCall cfg s = { s with
        hostC := if cfg.config.animation = .scroll then nextC cfg s.hostC else s.hostC
        hostPh := if cfg.config.animation = .wave then nextPh s.hostPh else s.hostPh
        program := .issuing [.scan] }) ∨
      (¬(s.program = .calling [] ∧ s.fault = .noFault) ∧ endCall cfg s = s) := by
  by_cases h : s.program = .calling [] ∧ s.fault = .noFault
  · refine .inl ⟨h.1, h.2, ?_⟩
    rw [endCall, if_pos h, animationStep_state]
  · exact .inr ⟨h, if_neg h⟩

/-- The end of a HOST step touches nothing but HOST's own counters and program. -/
theorem endCall_block (cfg : WfConfig) (s : State) :
    endCall cfg s = { s with
      hostC := (endCall cfg s).hostC
      hostPh := (endCall cfg s).hostPh
      program := (endCall cfg s).program } := by
  obtain ⟨_, _, h⟩ | ⟨_, h⟩ := endCall_cases cfg s <;> rw [h]

/-- Everything a HOST step can do: the illegal-word fault, or the command the word decodes to. -/
theorem hostStep_cases (w : Word) (s : State) :
    (isLegal w = false ∧ hostStep w s = .next (raiseFault .illegalCommand w s)) ∨
      ∃ i, decode w = .ok i ∧ hostStep w s = exec i s := by
  unfold hostStep isLegal
  cases decode w with
  | ok i => exact .inr ⟨i, rfl, rfl⟩
  | error e => exact .inl ⟨rfl, rfl⟩

/-- Everything one step of the block can do when it answers a next state. -/
theorem agentStep_cases {cfg : WfConfig} {s t : State} (h : agentStep cfg s = .next t) :
    s.fault = .noFault ∧
      ((s.toneEn = true ∧ t = tick cfg s) ∨
        (s.scanActive = true ∧ scanStep s = .next t) ∨
        (s.scanActive = false ∧ ∃ w rest, s.pending = w :: rest ∧ hostStep w { s with pending := rest } = .next t) ∨
        (s.scanActive = false ∧ s.pending = [] ∧ ∃ i u v, nextCommand cfg s = some (i, u) ∧
          hostStep (encode i) u = .next v ∧ t = endCall cfg v) ∨
        (s.scanActive = false ∧ s.toneEn = false ∧ s.pending = [] ∧ nextCommand cfg s = none ∧ t = s)) := by
  unfold agentStep at h
  split at h
  · cases h
  · rename_i hf
    refine ⟨by simpa using hf, ?_⟩
    split at h
    · rename_i ht
      exact .inl ⟨ht.2, (Host.Outcome.next.inj h).symm⟩
    · split at h
      · rename_i ha
        exact .inr (.inl ⟨ha, h⟩)
      · rename_i ha
        have ha' : s.scanActive = false := by simpa using ha
        split at h
        · rename_i w rest hp
          exact .inr (.inr (.inl ⟨ha', w, rest, hp, h⟩))
        · rename_i hp
          split at h
          · rename_i i u hn
            obtain ⟨v, hv, rfl⟩ := onNext_eq_next h
            exact .inr (.inr (.inr (.inl ⟨ha', hp, i, u, v, hn, hv, rfl⟩)))
          · rename_i hn
            split at h
            · rename_i he
              exact .inl ⟨he, (Host.Outcome.next.inj h).symm⟩
            · rename_i he
              exact .inr (.inr (.inr (.inr ⟨ha', by simpa using he, hp, hn, (Host.Outcome.next.inj h).symm⟩)))

/-- A step is an agent's step and then the draw of the next turn. -/
theorem stepWith_cases {cfg : WfConfig} {sched : Nat → Turn} {s t : State} (h : stepWith cfg sched s = .next t) :
    ∃ u, agentStep cfg s = .next u ∧ t = reschedule sched u := by
  unfold stepWith at h
  split at h
  · rename_i u hu
    exact ⟨u, hu, (Host.Outcome.next.inj h).symm⟩
  · cases h
  · cases h

theorem stepWith_of_agentStep {cfg : WfConfig} {sched : Nat → Turn} {s u : State} (h : agentStep cfg s = .next u) :
    stepWith cfg sched s = .next (reschedule sched u) := by simp [stepWith, h]

/-- Where TONE does not have the turn and a frame is active, SCAN moves. -/
theorem agentStep_scan {cfg : WfConfig} {s : State} (hf : s.fault = .noFault) (ha : s.scanActive = true)
    (ht : s.turn = .hostOrScan ∨ s.toneEn = false) : agentStep cfg s = scanStep s := by
  have hn : ¬(s.turn = .tone ∧ s.toneEn = true) := by
    rintro ⟨h1, h2⟩
    rcases ht with h | h
    · simp [h1] at h
    · simp [h2] at h
  simp [agentStep, hf, hn, ha]

/-- Where TONE has the turn and is enabled, it moves. -/
theorem agentStep_tone {cfg : WfConfig} {s : State} (hf : s.fault = .noFault) (ht : s.turn = .tone)
    (he : s.toneEn = true) : agentStep cfg s = .next (tick cfg s) := by
  simp [agentStep, hf, ht, he]

/-- Where TONE does not have the turn, no frame is active and a word from outside is pending, HOST moves with that word. -/
theorem agentStep_host {cfg : WfConfig} {s : State} {w : Word} {rest : List Word} (hf : s.fault = .noFault)
    (ha : s.scanActive = false) (ht : s.turn = .hostOrScan ∨ s.toneEn = false) (hp : s.pending = w :: rest) :
    agentStep cfg s = hostStep w { s with pending := rest } := by
  have hn : ¬(s.turn = .tone ∧ s.toneEn = true) := by
    rintro ⟨h1, h2⟩
    rcases ht with h | h
    · simp [h1] at h
    · simp [h2] at h
  simp [agentStep, hf, hn, ha, hp]

/-- Where nothing is pending, HOST moves with its own program's next command. -/
theorem agentStep_program {cfg : WfConfig} {s u : State} {i : Instr} (hf : s.fault = .noFault)
    (ha : s.scanActive = false) (ht : s.turn = .hostOrScan ∨ s.toneEn = false) (hp : s.pending = [])
    (hc : nextCommand cfg s = some (i, u)) : agentStep cfg s = onNext (endCall cfg) (hostStep (encode i) u) := by
  have hn : ¬(s.turn = .tone ∧ s.toneEn = true) := by
    rintro ⟨h1, h2⟩
    rcases ht with h | h
    · simp [h1] at h
    · simp [h2] at h
  simp [agentStep, hf, hn, ha, hp, hc]

/-- Where TONE has no turn to take: the two ways to say so. -/
theorem turn_cases (s : State) :
    (s.turn = .tone ∧ s.toneEn = true) ∨ (s.turn = .hostOrScan ∨ s.toneEn = false) := by
  cases h : s.turn <;> cases h' : s.toneEn <;> simp

theorem scanSteps_one (s : State) : scanSteps 1 s = scanStep s := by
  unfold scanSteps
  cases scanStep s <;> rfl

/-- One SCAN step more, at the end. -/
theorem scanSteps_succ {k : Nat} {s u : State} (h : scanSteps k s = .next u) : scanSteps (k + 1) s = scanStep u := by
  induction k generalizing s with
  | zero =>
    cases h
    exact scanSteps_one _
  | succ k ih =>
    rw [scanSteps]
    rw [scanSteps] at h
    cases hs : scanStep s with
    | next v =>
      simp only [hs] at h ⊢
      exact ih h
    | fault r => simp [hs] at h
    | refused r => simp [hs] at h

/-- One step more, at the front. -/
theorem runWith_succ {cfg : WfConfig} {sched : Nat → Turn} {k : Nat} {s t : State}
    (h : stepWith cfg sched s = .next t) : runWith cfg sched (k + 1) s = runWith cfg sched k t := by
  simp [runWith, h]

/-- A run of k + l steps is a run of k and then one of l. -/
theorem runWith_add {cfg : WfConfig} {sched : Nat → Turn} {k : Nat} (l : Nat) {s t : State}
    (h : runWith cfg sched k s = .next t) : runWith cfg sched (k + l) s = runWith cfg sched l t := by
  induction k generalizing s with
  | zero =>
    cases h
    rw [Nat.zero_add]
  | succ k ih =>
    rw [show k + 1 + l = k + l + 1 by omega]
    cases hs : stepWith cfg sched s with
    | next u =>
      rw [runWith_succ hs] at h ⊢
      exact ih h
    | fault r => simp [runWith, hs] at h
    | refused r => simp [runWith, hs] at h

end Sys2Proof.Machine
end

