-- ==== Sys2Proof/Laws/Config.lean ====
section
/-! SUPPORT. What a well-formed configuration gives: each check of R12 and R13 as a fact. -/

namespace Sys2Proof

/-- The checks of a well-formed configuration, apart. -/
theorem wf_checks (cfg : WfConfig) :
    cfg.config.pinMapInjective = true ∧ cfg.config.remapInRange = true ∧ cfg.config.msgNonempty = true ∧
      cfg.config.notesPositive = true ∧ cfg.config.clockPositive = true ∧ cfg.config.cmpWidthInRange = true ∧
      cfg.config.comparesFit = true := by
  have h := cfg.ok
  simp only [Config.wf, Bool.and_eq_true] at h
  tauto

theorem pinMap_nodup (cfg : WfConfig) : cfg.config.pinMap.toList.Nodup := by
  simpa [Config.pinMapInjective] using (wf_checks cfg).1

theorem remapFrom_le (cfg : WfConfig) : cfg.config.remapFrom ≤ 7 := by
  simpa [Config.remapInRange] using (wf_checks cfg).2.1

theorem msgLength_pos (cfg : WfConfig) : 1 ≤ cfg.config.msgLength := by
  simpa [Config.msgNonempty] using (wf_checks cfg).2.2.1

theorem cmpWidth_le (cfg : WfConfig) : cfg.config.cmpWidth ≤ 32 := by
  have h := (wf_checks cfg).2.2.2.2.2.1
  simp only [Config.cmpWidthInRange, Bool.and_eq_true, decide_eq_true_eq] at h
  exact h.2

/-- Every entry of NOTE_TABLE is at least 1 (R13). -/
theorem note_pos (cfg : WfConfig) {f0 : Nat} (h : f0 ∈ cfg.config.noteTable.toList) : 1 ≤ f0 := by
  have hall := (wf_checks cfg).2.2.2.1
  simp only [Config.notesPositive, List.all_eq_true, decide_eq_true_eq] at hall
  exact hall f0 h

/-- Either octave bit of every entry gives a compare value in range (R13). -/
theorem compare_in_range (cfg : WfConfig) {f0 k : Nat} (h : f0 ∈ cfg.config.noteTable.toList) (hk : k < 2) :
    1 ≤ Machine.compareValue cfg.config.clockRate f0 k ∧
      Machine.compareValue cfg.config.clockRate f0 k < 2 ^ cfg.config.cmpWidth := by
  have hall := (wf_checks cfg).2.2.2.2.2.2
  simp only [Config.comparesFit, List.all_eq_true, Bool.and_eq_true, decide_eq_true_eq] at hall
  exact hall f0 h k (by interval_cases k <;> simp)

/-- The note of a tick is an entry of NOTE_TABLE (R197). -/
theorem noteFrequency_mem (cfg : Config) (t : Nat) : Machine.noteFrequency cfg t ∈ cfg.noteTable.toList := by
  simp [Machine.noteFrequency]

/-- The octave bit is 0 or 1 (R198). -/
theorem octaveBit_lt (t : Nat) : Machine.octaveBit t < 2 := Nat.mod_lt _ (by decide)

end Sys2Proof
end

