-- ==== Sys2Proof/Laws/HostProc.lean ====
section
/-! SUPPORT. What the host procedures can do: the renderer's map, the font's lookup, and the words HOST goes on with. -/

namespace Sys2Proof.Machine

/-- The renderer's map, both ways (R236). -/
theorem physPos_eq_some {cfg : WfConfig} {pos : Nat} {p : Slot} :
    physPos cfg pos = some p ↔ remapped cfg pos ≤ 7 ∧ p.toNat = 7 - remapped cfg pos := by
  unfold physPos
  by_cases h : remapped cfg pos > 7
  · simp [h]
  · have hlt : 7 - remapped cfg pos < 2 ^ 3 := by omega
    simp only [h, if_false, Option.some.injEq]
    constructor
    · intro e
      rw [← e, BitVec.toNat_ofNat, Nat.mod_eq_of_lt hlt]
      exact ⟨by omega, rfl⟩
    · rintro ⟨-, e⟩
      apply BitVec.eq_of_toNat_eq
      rw [BitVec.toNat_ofNat, Nat.mod_eq_of_lt hlt, e]

/-- A position below REMAP_FROM stays, and one from REMAP_FROM on is moved up by one (R236). -/
theorem remapped_cases (cfg : WfConfig) (pos : Nat) :
    (pos < cfg.config.remapFrom ∧ remapped cfg pos = pos) ∨
      (cfg.config.remapFrom ≤ pos ∧ remapped cfg pos = pos + 1) := by
  unfold remapped
  split
  · exact .inr ⟨by omega, rfl⟩
  · exact .inl ⟨by omega, rfl⟩

/-- The digit the renderer skips, as a number (R237). -/
theorem skipDigit_toNat (cfg : WfConfig) : (skipDigit cfg).toNat = 7 - cfg.config.remapFrom := by
  simp only [skipDigit, BitVec.toNat_ofNat]
  exact Nat.mod_eq_of_lt (by omega)

/-- A code that folds to no drawn symbol has the blank mask (R233, R234). -/
theorem fontMask_blank {cfg : WfConfig} {x : Byte} (h : glyphSymbols.idxOf? (foldCase x) = none) :
    fontMask cfg x = 0x00 := by unfold fontMask; rw [h]

/-- A code that folds to the drawn symbol number i has the configuration's mask number i (R235). -/
theorem fontMask_drawn {cfg : WfConfig} {x : Byte} {i : Nat} (h : glyphSymbols.idxOf? (foldCase x) = some i) :
    fontMask cfg x = cfg.config.font.toList.getD i 0x00 := by unfold fontMask; rw [h]

/-- Every command of the renderer is a WRBUF (R238, R240). -/
theorem puts_wrbuf {cfg : WfConfig} {start : Nat} {text : List Byte} {i : Instr} (h : i ∈ puts cfg start text) :
    ∃ p v, i = .wrbuf p v := by
  induction text generalizing start with
  | nil => simp [puts] at h
  | cons ch rest ih =>
    simp only [puts] at h
    split at h
    · rcases List.mem_append.mp h with h | h
      · unfold putc at h
        split at h
        · exact ⟨_, _, List.mem_singleton.mp h⟩
        · simp at h
      · exact ih h
    · simp at h

/-- Every command of an animation step is a WRBUF (R242, R245). -/
theorem animation_wrbuf {cfg : WfConfig} {s : State} {i : Instr} (h : i ∈ (animationStep cfg s).1) :
    ∃ p v, i = .wrbuf p v := by
  unfold animationStep at h
  split at h
  · exact puts_wrbuf h
  · simp only [waveStep, waveCommands, List.mem_map] at h
    obtain ⟨d, -, rfl⟩ := h
    exact ⟨_, _, rfl⟩

/-- Under R48's range of C no animation step is without a command (R242, R245). -/
theorem animation_ne_nil {cfg : WfConfig} {s : State} (h : HostInv cfg s) : (animationStep cfg s).1 ≠ [] := by
  cases ha : cfg.config.animation with
  | wave => simp [animationStep, ha, waveStep, waveCommands, slots]
  | scroll =>
    have hc := h.c
    have hr := remapped_cases cfg 0
    have hp : physPos cfg 0 ≠ none := by
      unfold physPos
      split
      · omega
      · simp
    obtain ⟨p, hp⟩ := Option.ne_none_iff_exists'.mp hp
    have ho : scrollOffset s.hostC < cfg.config.msg.length := by
      simp only [scrollOffset, Config.msgLength, scrollN] at hc ⊢
      omega
    rw [show (animationStep cfg s).1 = puts cfg 0 (cfg.config.msg.drop (scrollOffset s.hostC)) by
      simp only [animationStep, ha]; rfl, List.drop_eq_getElem_cons ho]
    simp only [puts, putc, hp]
    simp

/-- An outside host has no program to go on with. -/
theorem nextCommand_external {cfg : WfConfig} {s : State} (h : s.program = .external) : nextCommand cfg s = none := by
  simp [nextCommand, h]

/-- HOST in MAIN always has a next command (R247: MAIN never terminates). -/
theorem nextCommand_isSome {cfg : WfConfig} {s : State} (h : s.program ≠ .external) :
    (nextCommand cfg s).isSome = true := by
  cases hp : s.program with
  | external => exact absurd hp h
  | issuing commands => cases commands <;> simp [nextCommand, hp]
  | calling commands => simp [nextCommand, hp]

/-- Between animation steps MAIN goes on with the commands it has made up. -/
theorem nextCommand_issuing {cfg : WfConfig} {s : State} {i : Instr} {rest : List Instr}
    (h : s.program = .issuing (i :: rest)) : nextCommand cfg s = some (i, { s with program := .issuing rest }) := by
  simp [nextCommand, h]

/-- With those out, MAIN goes on with the first command of an animation step (R247). -/
theorem nextCommand_call {cfg : WfConfig} {s : State} {i : Instr} {rest : List Instr} (h : s.program = .issuing [])
    (hc : (animationStep cfg s).1 = i :: rest) : nextCommand cfg s = some (i, { s with program := .calling rest }) := by
  simp [nextCommand, h, hc, callCommand]

/-- Inside an animation step MAIN goes on with its next command. -/
theorem nextCommand_calling {cfg : WfConfig} {s : State} {i : Instr} {rest : List Instr}
    (h : s.program = .calling (i :: rest)) : nextCommand cfg s = some (i, { s with program := .calling rest }) := by
  simp [nextCommand, h, callCommand]

/-- Under R48's invariant coming by the next command moves no counter. -/
theorem nextCommand_counters {cfg : WfConfig} {s u : State} {i : Instr} (hi : HostInv cfg s) (hf : s.fault = .noFault)
    (h : nextCommand cfg s = some (i, u)) : u.hostC = s.hostC ∧ u.hostPh = s.hostPh := by
  obtain ⟨_, _, rfl⟩ | ⟨_, _, _, rfl⟩ | ⟨_, _, rfl⟩ | ⟨h1 | ⟨_, h1⟩, _⟩ := nextCommand_cases h
  · exact ⟨rfl, rfl⟩
  · exact ⟨rfl, rfl⟩
  · exact ⟨rfl, rfl⟩
  · exact absurd h1 (hi.written hf)
  · exact absurd h1 (animation_ne_nil hi)

end Sys2Proof.Machine
end

