-- ==== Sys2Proof/Laws/PerInstr.lean ====
section
/-! SUPPORT. Statements made per instruction, one lemma per constructor of Instr. -/

namespace Sys2Proof.Laws

/-- The command's row stands in the opcode table, and its word carries that row's opcode (R101, R103). -/
def OpcodeOfRow.Statement (i : Instr) : Prop :=
  rowOf i ∈ opcodeTable ∧ opField (encode i) = opField (rowOf i).matchBits

theorem OpcodeOfRow.nop : OpcodeOfRow.Statement .nop := ⟨by simp [rowOf, opcodeTable], by decide⟩

theorem OpcodeOfRow.init : OpcodeOfRow.Statement .init := ⟨by simp [rowOf, opcodeTable], by decide⟩

theorem OpcodeOfRow.wrbuf (slot : Slot) (mask : Byte) : OpcodeOfRow.Statement (.wrbuf slot mask) := by
  refine ⟨by simp [rowOf, opcodeTable], ?_⟩
  apply BitVec.eq_of_getLsbD_eq
  intro i hi
  simp only [opField, encode, rowOf, BitVec.getLsbD_extractLsb', BitVec.getLsbD_or, BitVec.getLsbD_shiftLeft,
    BitVec.getLsbD_setWidth]
  interval_cases i <;> simp

theorem OpcodeOfRow.rdbuf (slot : Slot) : OpcodeOfRow.Statement (.rdbuf slot) := by
  refine ⟨by simp [rowOf, opcodeTable], ?_⟩
  apply BitVec.eq_of_getLsbD_eq
  intro i hi
  simp only [opField, encode, rowOf, BitVec.getLsbD_extractLsb', BitVec.getLsbD_or, BitVec.getLsbD_shiftLeft,
    BitVec.getLsbD_setWidth]
  interval_cases i <;> simp

theorem OpcodeOfRow.scan : OpcodeOfRow.Statement .scan := ⟨by simp [rowOf, opcodeTable], by decide⟩

theorem OpcodeOfRow.toneStart : OpcodeOfRow.Statement .toneStart := ⟨by simp [rowOf, opcodeTable], by decide⟩

end Sys2Proof.Laws
end

