-- ==== Sys2Proof/Tests/Slice0.lean ====
section
/-! SUPPORT. Tests of the model against the spec's worked examples and derived vectors (95_test_vectors.md), the smoke tests
of the checks, and for every obligation with hypotheses a concrete witness that meets them. -/

namespace Sys2Proof.Tests

open Sys2Proof.Machine

/-! ## Helpers -/

/-- The example configuration EX. -/
def ex : WfConfig := {}

/-- A state after INIT with BUF[3] = 0xFF and BUF[5] = 0x3F. -/
def ready : State := { State.reset with initDone := true, outEn := true, buf := [(3, 0xFF), (5, 0x3F)] }

/-- Slot 5 of a frame over that buffer is lit. -/
def lit : State := { ready with scanActive := true, scanPos := 6, digSel := some 5, segOut := 0x3F }

/-- The tone sequencer enabled with T = n, and TONE's turn to move. -/
def tuned (n : Nat) : State := { State.reset with toneEn := true, t := BitVec.ofNat 10 n, turn := .tone }

/-- A schedule in which the turns alternate. -/
def alternate (n : Nat) : Turn := if n % 2 = 0 then .hostOrScan else .tone

/-- EX with one field spoiled, for the checks of R13. -/
def spoiledPins : Config := { exConfig with pinMap := Vector.replicate 17 (0, 0) }
def spoiledNotes : Config := { exConfig with noteTable := Vector.replicate 32 0 }

/-! ## The checks (WellFormed.lean): an ill-formed term for each -/

theorem test_slot_check : slotInRange 8 = false ∧ slotInRange 7 = true := by decide
theorem test_mask_check : maskInRange 256 = false ∧ maskInRange 255 = true := by decide
theorem test_wrbuf_slot_ill_formed : (Asm.wrbuf 8 0).wf = false := by decide
theorem test_wrbuf_mask_ill_formed : (Asm.wrbuf 0 256).wf = false := by decide
theorem test_rdbuf_ill_formed : (Asm.rdbuf 8).wf = false := by decide
theorem test_ex_well_formed : exConfig.wf = true := ex.ok
theorem test_pin_map_check : spoiledPins.pinMapInjective = false := by decide +kernel
theorem test_remap_check : { exConfig with remapFrom := 8 }.remapInRange = false := by decide
theorem test_msg_check : { exConfig with msg := [] }.msgNonempty = false := by decide
theorem test_notes_check : spoiledNotes.notesPositive = false := by decide +kernel
theorem test_clock_check : { exConfig with clockRate := 0 }.clockPositive = false := by decide
theorem test_cmp_width_check : { exConfig with cmpWidth := 33 }.cmpWidthInRange = false := by decide
/-- V24: CMP_WIDTH = 12 under EX is refused (7633 > 4095). -/
theorem test_compares_check : { exConfig with cmpWidth := 12 }.comparesFit = false := by decide +kernel
theorem test_ill_formed_config_refused :
    spoiledNotes.wf = false ∧ { exConfig with cmpWidth := 12 }.wf = false := by decide +kernel

/-! ## Decoding: words written out bit by bit from R101 and R103 (section 2.1) -/

theorem test_decode_nop : decode 0b0000_000000000000 = .ok .nop := by decide
theorem test_decode_init : decode 0b0001_000000000000 = .ok .init := by decide
theorem test_decode_wrbuf : decode 0b0010_0_011_10000001 = .ok (.wrbuf 3 0x81) := by decide
theorem test_decode_rdbuf : decode 0b0011_0_101_00000000 = .ok (.rdbuf 5) := by decide
theorem test_decode_scan : decode 0b0100_000000000000 = .ok .scan := by decide
theorem test_decode_toneStart : decode 0b0101_000000000000 = .ok .toneStart := by decide
theorem test_decode_wrbuf_top : decode 0x27FF = .ok (.wrbuf 7 0xFF) := by decide
theorem test_decode_reserved_bit : decode 0x2800 = .error (.reservedBits 2) := by decide
theorem test_decode_rdbuf_reserved : decode 0x3701 = .error (.reservedBits 3) := by decide
theorem test_decode_reserved_op : decode 0x6000 = .error (.reservedOpcode 6) := by decide
/-- R108's encoding of the two commands with operands. -/
theorem test_encode : encode (.wrbuf 5 0x3F) = 0x253F ∧ encode (.rdbuf 7) = 0x3700 := by decide
theorem test_decodeTableWord : decodeTableWord 16 0x2381 = some (.wrbuf 3 0x81) ∧ decodeTableWord 16 0x2800 = none := by
  decide

/-! ## Commands (section 2.2) -/

/-- V10. -/
theorem test_nop_not_gated : nextOf (hostStep 0x0000 State.reset) = some State.reset := by decide
/-- V1. -/
theorem test_init_from_reset : (nextOf (exec .init State.reset)).map (fun s => (s.buf, s.outEn, s.initDone)) =
    some ([], true, true) := by decide
/-- V2. -/
theorem test_init_clears : (nextOf (exec .init lit)).map (fun s => (memRead s 3, s.digSel, s.segOut)) =
    some (0x00, none, 0x00) := by decide
/-- V3. -/
theorem test_wrbuf : (nextOf (hostStep 0x2381 ready)).map (fun s => (memRead s 3, memRead s 5, s.segOut)) =
    some (0x81, 0x3F, 0x00) := by decide
/-- R144: MASK = 0x00 blanks the digit, and the canonical buffer lists nothing there. -/
theorem test_wrbuf_blank : (nextOf (exec (.wrbuf 3 0x00) ready)).map (·.buf) = some [(5, 0x3F)] := by decide
/-- V4. -/
theorem test_rdbuf : (nextOf (hostStep 0x3500 ready)).map (·.responses) = some [0x3F] := by decide
/-- V7. -/
theorem test_rdbuf_uninitialised : (nextOf (hostStep 0x3000 State.reset)).map (fun s => (s.fault, s.responses)) =
    some (.notInitialised, []) := by decide
/-- V6. -/
theorem test_wrbuf_uninitialised :
    (nextOf (hostStep 0x20FF State.reset)).map (fun s => (faultBits s.fault, s.faultCmd, memRead s 0)) =
      some (2, some 0x20FF, 0x00) := by decide
/-- V8. -/
theorem test_scan_uninitialised : (nextOf (hostStep 0x4000 State.reset)).map (fun s => (s.fault, s.scanActive)) =
    some (.notInitialised, false) := by decide
/-- R150's example: no line moves. -/
theorem test_scan : (nextOf (hostStep 0x4000 ready)).map (fun s => (s.scanActive, s.scanPos, s.digSel)) =
    some (true, 0, none) := by decide
/-- V9: ILLEGAL takes priority before INIT. -/
theorem test_illegal_before_init : (nextOf (hostStep 0x6000 State.reset)).map (fun s => (faultBits s.fault, s.faultCmd)) =
    some (1, some 0x6000) := by decide
/-- V11. -/
theorem test_illegal_reserved_bit : (nextOf (hostStep 0x2800 ready)).map (fun s => (s.fault, s.faultCmd)) =
    some (.illegalCommand, some 0x2800) := by decide
/-- V12: even 0x6000 is held during a frame. -/
theorem test_held : (nextOf (stepWith ex alternate { lit with pending := [0x6000] })).map (fun s => (s.pending, s.fault)) =
    some ([0x6000], .noFault) := by decide
/-- V22: TONE_START twice leaves T. -/
theorem test_toneStart_twice : (nextOf (exec .toneStart (tuned 5))).map (fun s => (s.toneEn, s.t)) = some (true, 5) := by
  decide

/-! ## The scan sequencer (section 2.3) -/

/-- V14, step 4, over another buffer: BUF[3] is shown on digit 3. -/
theorem test_slot_step : (nextOf (scanStep { ready with scanActive := true, scanPos := 3 })).map
    (fun s => (s.digSel, s.segOut, s.scanPos, s.scanActive)) = some (some 3, 0xFF, 4, true) := by decide
/-- V14, step 8: the last slot leaves SCAN_POS = 8. -/
theorem test_last_slot : (nextOf (scanStep { lit with scanPos := 7 })).map (fun s => (s.digSel, s.segOut, s.scanPos)) =
    some (some 7, 0x00, 8) := by decide
/-- V14, step 9. -/
theorem test_end_of_frame : (nextOf (scanStep { lit with scanPos := 8 })).map
    (fun s => (s.digSel, s.segOut, s.scanPos, s.scanActive)) = some (none, 0x00, 0, false) := by decide
/-- V16. -/
theorem test_digit_groups : groupA { lit with digSel := some 5 } = 0b100000 ∧ groupB { lit with digSel := some 5 } = 0b00 ∧
    groupA { lit with digSel := some 6 } = 0 ∧ groupB { lit with digSel := some 6 } = 0b01 ∧
    groupB { lit with digSel := some 7 } = 0b10 := by decide
/-- V16. -/
theorem test_segment_groups : groupX { lit with segOut := 0xB5 } = 0b01 ∧ groupY { lit with segOut := 0xB5 } = 0b101101 := by
  decide
/-- R12's groups are those of R77 and R78: six lines on A and Y, two on B and X. -/
theorem test_groups_of_lines : (slots.filter fun p => decide (groupA { lit with digSel := some p } ≠ 0)).map (·.toNat) = digGroupA ∧
    (slots.filter fun p => decide (groupB { lit with digSel := some p } ≠ 0)).map (·.toNat) = digGroupB ∧
    ((List.range 8).filter fun i => decide (groupX { lit with segOut := 1#8 <<< i } ≠ 0)) = segGroupX ∧
    ((List.range 8).filter fun i => decide (groupY { lit with segOut := 1#8 <<< i } ≠ 0)) = segGroupY := by decide
/-- V17. -/
theorem test_levels : segDriven { lit with segOut := 0x81 } = 0x7E ∧ digitLevel ex true = .high ∧
    segmentLevel true = .low := by decide
/-- V18. -/
theorem test_undriven : level ex (fun _ _ => true) { lit with outEn := false } 0 (digitLine 5) = .undriven := by decide

/-! ## The tone sequencer under EX (section 2.4) -/

/-- t = 3. -/
theorem test_tick_3 : (tick ex (tuned 3)).cmp = some 1349 ∧ (tick ex (tuned 3)).t = 4 := by decide +kernel
/-- t = 383 and t = 384: the factor changes. -/
theorem test_tick_384 : (tick ex (tuned 383)).cmp = some 2544 ∧ (tick ex (tuned 384)).cmp = some 4545 := by decide +kernel
/-- t = 767: the wrap. -/
theorem test_tick_767 : (tick ex (tuned 767)).cmp = some 7633 ∧ (tick ex (tuned 767)).t = 0 := by decide +kernel
/-- V20: an exact division. -/
theorem test_compare_exact : compareValue 660000 440 1 = 1000 := by decide
/-- V23: before TONE_START the audio line is Z. -/
theorem test_audio_undriven : audioLevel (fun _ _ => true) State.reset 0 = .undriven := by decide

/-! ## Host procedures under EX (section 2.5) -/

/-- The position map with REMAP_FROM = 3. -/
theorem test_phys : (List.range 8).map (physPos ex) = [some 7, some 6, some 5, some 3, some 2, some 1, some 0, none] ∧
    physPos ex 200 = none ∧ skipDigit ex = 4 := by decide
/-- V27 and V28: case folding, and a blank letter. -/
theorem test_putc : putc ex 2 0x61 = [.wrbuf 5 (fontMask ex 0x41)] ∧ putc ex 1 0x64 = [.wrbuf 6 0x00] := by decide +kernel
/-- V33. -/
theorem test_puts : puts ex 5 [0x48, 0x45, 0x4C, 0x4C, 0x4F] =
    [.wrbuf 1 (fontMask ex 0x48), .wrbuf 0 (fontMask ex 0x45)] := by decide +kernel
/-- V41: offset 7 of "ABCDEFGHIJ" shows "HIJ". -/
theorem test_scroll_window : scrollCommands ex 350 = puts ex 0 [0x48, 0x49, 0x4A] := by decide +kernel
/-- V42. -/
theorem test_scroll_wrap : scrollOffset 499 = 9 ∧ nextC ex 499 = 0 := by decide +kernel
/-- V46. -/
theorem test_wave : waveCommands 25 = [.wrbuf 0 0x04, .wrbuf 1 0x08, .wrbuf 2 0x10, .wrbuf 3 0x20, .wrbuf 4 0x40,
    .wrbuf 5 0x80, .wrbuf 6 0x01, .wrbuf 7 0x02] := by decide
/-- V47. -/
theorem test_wave_wrap : waveRotation 79 = 7 ∧ nextPh 79 = 0 := by decide
/-- P2, command 1: MAIN starts with INIT, and has TONE_START and SCAN left. -/
theorem test_main_start : (nextCommand ex State.reset).map (fun r => (r.1, r.2.program)) =
    some (.init, .issuing [.toneStart, .scan]) := by decide
/-- P2, command 4: after SCAN the first command of WAVE_STEP, the other seven left, PH not yet written. -/
theorem test_main_loop : (nextCommand ex { ready with program := .issuing [], hostPh := 1 }).map
    (fun r => (r.1, r.2.hostPh, r.2.program)) =
    some (.wrbuf 0 0x01, 1, .calling [.wrbuf 1 0x02, .wrbuf 2 0x04, .wrbuf 3 0x08, .wrbuf 4 0x10, .wrbuf 5 0x20,
      .wrbuf 6 0x40, .wrbuf 7 0x80]) := by decide +kernel
/-- P2, command 20 and the end state: the last WRBUF leaves PH = 2, no frame active and SCAN to come. -/
theorem test_main_counter : (nextOf (stepWith ex alternate { ready with program := .calling [.wrbuf 7 0x80], hostPh := 1 })).map
    (fun s => (memRead s 7, s.hostPh, s.scanActive, s.program)) = some (0x80, 2, false, .issuing [.scan]) := by decide +kernel

/-! ## The assembler (R108) -/

/-- The line WRBUF 3, 0x81. -/
theorem test_parse_wrbuf : parseLine ['W', 'R', 'B', 'U', 'F', ' ', '3', ',', ' ', '0', 'x', '8', '1'] =
    some (.wrbuf 3 0x81) := by decide
/-- The line PUTC 4, 'A'. -/
theorem test_parse_putc : parseLine ['P', 'U', 'T', 'C', ' ', '4', ',', ' ', '\'', 'A', '\''] = some (.putc 4 0x41) := by
  decide
/-- The model's reader ends a text at the first double quote and takes no comment (log 24, log 25). -/
theorem test_parse_refuses : parseLine ['N', 'O', 'P', ' ', ';'] = none ∧ parseLine [] = none ∧
    parseLine ['P', 'U', 'T', 'S', ' ', '0', ',', '"', '"', '"'] = none := by decide
/-- R238's example under EX. -/
theorem test_assemble_putc : assemble ex (.putc 4 0x41) = some [.wrbuf 2 (fontMask ex 0x41)] := by decide +kernel

/-! ## The machine -/

/-- The placed word runs as the first step after reset. -/
theorem test_first_word : (nextOf (step (State.reset.withFetchWord 16 0x5000))).map (·.toneEn) = some true := by decide
/-- P5: the second command is never accepted. -/
theorem test_stuck_after_fault : nextOf (step { State.reset with fault := .notInitialised, pending := [0x1000] }) = none := by
  decide
/-- W1 and R334: 8 ms per frame; a note of 3 ticks lasts 0.75 s, the cycle of 768 ticks 192 s. -/
theorem test_timing : exConfig.framePeriodUs = 8000 ∧ exConfig.flickerFree = true ∧ exConfig.ticksMs 3 = 750 ∧
    exConfig.ticksMs 768 = 192000 := by decide

/-! ## Witnesses: concrete inputs that meet the hypotheses of each obligation -/

theorem witness_EncodingRoundTrips : decode 0x27FF = .ok (.wrbuf 7 0xFF) := by decide

theorem witness_LegalWordsSelectExactlyOneRow : decode 0x3700 = .ok (.rdbuf 7) ∧
    selectsRow 0x3700 ⟨"RDBUF", 0x3000, 0xF8FF⟩ = true := by decide

theorem witness_ReservedEncodingsRaiseIllegalCommand : isLegal 0x0001 = false ∧ isLegal 0x2800 = false ∧
    isLegal 0x3001 = false ∧ isLegal 0x6000 = false ∧ isLegal 0xFFFF = false := by decide

/-- The hypotheses of `IssuedAs`, with a frame active and without. -/
theorem witness_IssuedAs : { ready with pending := [0x0000] }.fault = .noFault ∧
    { ready with pending := [0x0000] }.turn = .hostOrScan ∧ { ready with pending := [0x0000] }.scanActive = false ∧
    { lit with pending := [0x0000] }.fault = .noFault ∧ { lit with pending := [0x0000] }.turn = .hostOrScan ∧
    { lit with pending := [0x0000] }.scanActive = true := by decide

theorem witness_NopChangesNothing : opField 0x0FFF = 0 ∧ (0x0FFF : Word) ≠ 0x0000 := by decide

theorem witness_InitBlanksAndEnables : Memory.wf lit.buf = true ∧ lit.buf ≠ [] := by decide

theorem witness_RepeatsAreIdempotent : (nextOf (exec .init ready)).isSome = true ∧ ready.initDone = true ∧
    Memory.wf ready.buf = true ∧ (nextOf (exec (.rdbuf 7) ready)).isSome = true ∧
    (nextOf (exec (.wrbuf 7 0xFF) ready)).isSome = true := by decide

theorem witness_WrbufWritesOneEntry : ready.initDone = true ∧ Memory.wf ready.buf = true ∧ memRead ready 3 = 0xFF ∧
    memRead ready 7 = 0x00 := by decide

theorem witness_WrbufWritesOneEntry_stops : State.reset.initDone = false ∧ opField 0x2FFF = 2 ∧
    (0x2FFF : Word).getLsbD 11 = true := by decide

theorem witness_RdbufRespondsWithTheEntry : ready.initDone = true ∧ State.reset.initDone = false ∧
    opField 0x3701 = 3 ∧ (0x3701 : Word).extractLsb' 0 8 ≠ 0 ∧ (0x3800 : Word).getLsbD 11 = true ∧
    (nextOf (exec .init ready)).isSome = true := by decide

theorem witness_ScanStartsAFrame : ready.initDone = true ∧ State.reset.initDone = false := by decide

theorem witness_ToneStartOnlyEnablesTheTick : (tuned 767).toneEn = true ∧
    (nextOf (exec .init (tuned 767))).isSome = true := by decide

theorem witness_UninitialisedDisplayCommandsFault : State.reset.initDone = false := by decide

theorem witness_HostStepChecksInOrder : { State.reset with pending := [0x4001] }.fault = .noFault ∧
    State.reset.scanActive = false ∧ State.reset.turn = .hostOrScan ∧ isLegal 0x4001 = false := by decide

theorem witness_HostStepChecksInOrder_gated : { State.reset with pending := [0x27FF] }.initDone = false ∧
    decode 0x27FF = .ok (.wrbuf 7 0xFF) ∧ isGated (.wrbuf 7 0xFF) = true := by decide

theorem witness_HostStepChecksInOrder_runs : { ready with pending := [0x27FF], turn := .tone }.initDone = true ∧
    { ready with pending := [0x27FF], turn := .tone }.toneEn = false ∧ decode 0x27FF = .ok (.wrbuf 7 0xFF) ∧
    isGated .toneStart = false ∧ decode 0x5000 = .ok .toneStart := by decide

theorem witness_StepRunsTheDecodedWord : { ready with pending := [0x3700] }.fault = .noFault ∧ ready.scanActive = false ∧
    ready.turn = .hostOrScan ∧ decode 0x3700 = .ok (.rdbuf 7) := by decide

theorem witness_PlacedWordRunsNext : State.reset.fault = .noFault ∧ State.reset.scanActive = false ∧
    decodeTableWord 16 0x1000 = some .init := by decide

theorem witness_HostIsHeldDuringAFrame : lit.scanActive = true ∧ lit.fault = .noFault ∧ lit.scanPos.toNat ≤ 8 ∧
    (nextOf (stepWith ex alternate lit)).isSome = true ∧ { lit with scanPos := 8 }.scanPos.toNat ≤ 8 := by decide

theorem witness_IdleBlockWaitsForHost : { ready with program := .external }.fault = .noFault ∧
    ready.scanActive = false ∧ ready.pending = [] ∧ ready.toneEn = false ∧
    { tuned 0 with program := .external }.program = .external ∧ (tuned 0).pending = [] ∧ (tuned 0).toneEn = true := by
  decide

theorem witness_SlotStepShowsOneDigit : { lit with scanPos := 7 }.scanPos.toNat = (7 : Slot).toNat := by decide

theorem witness_EndOfFrameDarkensAndReleases : { lit with scanPos := 8 }.scanPos = 8 := by decide

theorem witness_ScanAgentStepsInAFrame : lit.scanActive = true ∧ lit.fault = .noFault ∧ lit.turn = .hostOrScan ∧
    8 < { lit with scanPos := 9 }.scanPos.toNat := by decide

theorem witness_FrameTraceShowsEveryDigitOnce : ready.initDone = true := by decide

theorem witness_FairScheduleEndsEveryFrame : FairSchedule alternate ∧ lit.fault = .noFault ∧ lit.scanActive = true ∧
    lit.scanPos.toNat ≤ 8 := by
  refine ⟨⟨fun n => ⟨2 * n + 1, by omega, ?_⟩, fun n => ⟨2 * n, by omega, ?_⟩⟩, by decide⟩
  · simp [alternate]
  · simp [alternate]

theorem witness_TickProgramsTheCompareValue : (tuned 767).fault = .noFault ∧ (tuned 767).toneEn = true ∧
    (tuned 767).turn = .tone := by decide

theorem witness_CompareValueIsTheExactFloor : 1 ≤ 440 := by decide

theorem witness_OctaveFactorAlternates : 383 ≤ 383 ∧ 384 ≤ 384 ∧ 767 ≤ 767 := by decide

theorem witness_TonePeriods : 0 < 95 ∧ 95 < 96 ∧ 0 < 767 ∧ 767 < 768 := by decide

theorem witness_MelodyFollowsAnUnboundedCounter : (tuned 0).t = 0 := by decide

theorem witness_NoTickBeforeToneStart : ready.toneEn = false ∧
    (nextOf (stepWith ex alternate { ready with pending := [0x5000] })).isSome = true := by decide

theorem witness_GeneratorFrequencyFollowsCmp : (tick ex (tuned 767)).toneEn = true ∧
    (tick ex (tuned 767)).cmpValid = true ∧ (tick ex (tuned 767)).cmp = some 7633 ∧ State.reset.toneEn = false ∧
    (tuned 0).cmpValid = false ∧ (tuned 0).toneEn = true := by decide +kernel

theorem witness_TicksCommuteWithTheDisplay : (nextOf (exec .scan ready)).isSome = true ∧
    (nextOf (scanStep lit)).isSome = true := by decide

theorem witness_CommandsWriteOnlyTheirOwnState : (nextOf (exec (.wrbuf 7 0x01) ready)).isSome = true ∧
    (nextOf (exec .toneStart lit)).isSome = true ∧ (nextOf (exec (.rdbuf 0) State.reset)).isSome = true := by decide

theorem witness_FaultedMachineIsStuck : { State.reset with fault := .illegalCommand }.fault ≠ .noFault := by decide

/-- A step that leaves the fault record alone, one that records ILLEGAL_COMMAND, and two that record NOT_INITIALISED: a word
from outside, and MAIN's own last WRBUF of a call, which leaves PH unwritten. -/
theorem witness_FaultsArePreciseAndFirst : (nextOf (stepWith ex alternate lit)).map (·.fault) = some .noFault ∧
    (nextOf (stepWith ex alternate { ready with pending := [0x6000] })).map (·.fault) = some .illegalCommand ∧
    (nextOf (stepWith ex alternate { State.reset with pending := [0x4000] })).map (·.fault) = some .notInitialised ∧
    (nextOf (stepWith ex alternate { State.reset with program := .calling [.wrbuf 7 0x80], hostPh := 1 })).map
      (fun s => (s.fault, s.hostPh)) = some (.notInitialised, 1) := by
  decide +kernel

theorem witness_DigitSelectIsOneHot : (5 : Slot).toNat ≤ 5 ∧ 6 ≤ (6 : Slot).toNat ∧ ready.digSel = none := by decide

theorem witness_DisplayLineLevels : lit.outEn = true ∧ State.reset.outEn = false := by decide

theorem witness_AudioLineLevel : (tuned 0).toneEn = true ∧ State.reset.toneEn = false := by decide

theorem witness_RendererMapIsABijection : physPos ex 0 = some 7 ∧ physPos ex 6 = some 0 := by decide

theorem witness_FontBlanksAndFolds : 0x61 ≤ (0x7A : Byte).toNat ∧ (0x7A : Byte).toNat ≤ 0x7A ∧
    0x5A ∈ ([0x44, 0x46, 0x4F, 0x51, 0x54, 0x57, 0x58, 0x5A] : List Byte) ∧
    ¬(0x30 ≤ (0x3A : Byte).toNat ∧ (0x3A : Byte).toNat ≤ 0x39) ∧ ¬(0x41 ≤ (0x3A : Byte).toNat) := by
  refine ⟨by decide, by decide, by simp, by decide, by decide⟩

theorem witness_PutcWritesTheGlyph : 6 ≤ 6 ∧ ready.initDone = true ∧ 7 ≤ 7 := by decide

theorem witness_PutsWritesLeftToRight : ready.initDone = true ∧ 1 < [0x48, 0x45].length ∧ physPos ex (5 + 1) = some 0 ∧
    physPos ex 5 = some 1 := by decide

theorem witness_ScrollOffsetAdvances : 9 < ex.config.msgLength ∧ State.reset.hostC = 0 ∧
    { State.reset with hostC := 499 }.hostC < 50 * ex.config.msgLength := by decide +kernel

/-- The window's clauses at its last byte: offset 9 reaches position 0 only, and no position shows digit 4. -/
theorem witness_ScrollOffsetAdvances_window : { ready with hostC := 499 }.initDone = true ∧
    499 / 50 + 0 < ex.config.msgLength ∧ ¬(499 / 50 + 1 < ex.config.msgLength) ∧ physPos ex 0 = some 7 ∧
    ∀ i : Fin 7, physPos ex i.val ≠ some 4 := by decide +kernel

theorem witness_WaveIsAPermutation : { ready with hostPh := 79 }.initDone = true := by decide

theorem witness_ClearBlanksOnlyTheBuffer : ready.initDone = true := by decide

theorem witness_AssemblerEncodesInRangeOperands : 7 < 8 ∧ 255 < 256 ∧ 8 ≤ 8 ∧ 256 ≤ 256 := by decide

theorem witness_MainNeverFaults : MainInv State.reset ∧
    MainInv { lit with program := .calling [.wrbuf 7 0x80] } := by
  constructor
  · constructor <;> simp [State.reset, commandsLeft]
  · exact ⟨rfl, by decide, rfl, by decide, fun i hi p => by simp_all [commandsLeft], .inl rfl⟩

theorem witness_StepKeepsTheDisplayInvariants : DisplayInv lit ∧ (nextOf (step lit)).isSome = true := by
  refine ⟨⟨by decide, by decide, ?_, ?_, ?_, ?_, fun _ _ => by decide, by decide, by decide⟩, by decide⟩
  · intro p h
    obtain rfl : 5 = p := by simpa [lit] using h
    decide
  · intro h
    simp [lit] at h
  · intro h
    simp [lit] at h
  · intro _ h
    simp [lit] at h

theorem witness_StepKeepsTheToneInvariants :
    ToneInv Config.board { State.reset with toneEn := true, pending := [0x0000] } ∧
      (nextOf (step { State.reset with toneEn := true, pending := [0x0000] })).isSome = true := by
  refine ⟨?_, by decide⟩
  constructor <;> simp [State.reset, tMod]

theorem witness_StepKeepsTheFaultRecord : FaultInv { ready with pending := [0x6000] } ∧
    (nextOf (step { ready with pending := [0x6000] })).isSome = true := by
  refine ⟨?_, by decide⟩
  constructor <;> simp [ready, State.reset]

theorem witness_StepKeepsTheHostCounters : HostInv Config.board { ready with pending := [0x0000] } ∧
    (nextOf (step { ready with pending := [0x0000] })).isSome = true := by
  refine ⟨⟨?_, by decide, by decide⟩, by decide⟩
  have h := msgLength_pos Config.board
  show 0 < 50 * Config.board.config.msgLength
  omega

/-- EX meets the conditions, and one spoiled configuration fails each; EX runs. -/
theorem witness_IllFormedConfigurationIsRefused : spoiledPins.pinMap[0] = spoiledPins.pinMap[1] ∧
    ¬({ exConfig with remapFrom := 8 }.remapFrom ≤ 7) ∧ ¬(1 ≤ { exConfig with msg := [] }.msg.length) ∧
    ¬(1 ≤ spoiledNotes.noteTable[0]) ∧
    ¬(2 * exConfig.clockRate / (exConfig.noteTable[31] * (2 * 0 + 1)) ≤ 2 ^ { exConfig with cmpWidth := 12 }.cmpWidth - 1) ∧
    exConfig.wf = true := by decide +kernel

theorem witness_IllFormedConfigurationIsRefused_runs :
    stepUnder exConfig alternate State.reset ≠ .refused .illFormedConfig := by
  rw [stepUnder, dif_pos (show exConfig.wf = true from ex.ok)]
  exact fun h => by cases h

/-- HOST at each point of MAIN, with the counters in range; the wave's wrap at its last command. -/
theorem witness_MainRunsItsLoopInOrder : State.reset.program = .issuing [.init, .toneStart, .scan] ∧
    State.reset.fault = .noFault ∧ State.reset.scanActive = false ∧ State.reset.turn = .hostOrScan ∧
    State.reset.pending = [] ∧ State.reset.initDone = false ∧ isGated (.wrbuf 7 0x80) = true ∧
    { ready with program := .calling [.wrbuf 7 0x80] }.initDone = true ∧
    HostInv ex { ready with program := .issuing [], hostC := 499, hostPh := 79 } ∧
    HostInv ex { ready with program := .calling [.wrbuf 7 0x80], hostC := 499, hostPh := 79 } ∧
    (nextOf (stepWith ex alternate { ready with program := .calling [.wrbuf 7 0x80], hostPh := 79 })).map (·.hostPh) =
      some 0 := by
  refine ⟨rfl, rfl, rfl, rfl, rfl, rfl, rfl, rfl, ⟨?_, ?_, ?_⟩, ⟨?_, ?_, ?_⟩, ?_⟩ <;> decide +kernel

end Sys2Proof.Tests
end

section
/-! SUPPORT and the settled statement of R13. Each check of a configuration as the condition it decides; no step of any agent
refuses; so a refusal by name is exactly an ill-formed configuration. -/

namespace Sys2Proof

/-- What holds of every entry of a vector's list holds at every index. -/
theorem vector_forall_mem_iff {α : Type} {n : Nat} (v : Vector α n) (P : α → Prop) :
    (∀ x ∈ v.toList, P x) ↔ ∀ i : Fin n, P v[i] := by
  simp only [Vector.mem_toList_iff, Vector.forall_mem_iff_forall_getElem, Fin.forall_iff]
  rfl

theorem Config.pinMapInjective_iff (cfg : Config) :
    cfg.pinMapInjective = true ↔ ∀ i j : Fin 17, cfg.pinMap[i] = cfg.pinMap[j] → i = j := by
  rw [Config.pinMapInjective, decide_eq_true_eq, List.nodup_iff_injective_getElem]
  constructor
  · intro h i j hij
    have hval := @h ⟨i, by simp⟩ ⟨j, by simp⟩ (by simpa using hij)
    simpa [Fin.ext_iff] using hval
  · intro h i j hij
    have hval := h ⟨i, by simpa using i.isLt⟩ ⟨j, by simpa using j.isLt⟩ (by simpa using hij)
    simpa [Fin.ext_iff] using hval

theorem Config.remapInRange_iff (cfg : Config) : cfg.remapInRange = true ↔ cfg.remapFrom ≤ 7 := decide_eq_true_iff

theorem Config.msgNonempty_iff (cfg : Config) : cfg.msgNonempty = true ↔ 1 ≤ cfg.msg.length := decide_eq_true_iff

theorem Config.notesPositive_iff (cfg : Config) :
    cfg.notesPositive = true ↔ ∀ i : Fin 32, 1 ≤ cfg.noteTable[i] := by
  simp only [Config.notesPositive, List.all_eq_true, decide_eq_true_eq]
  exact vector_forall_mem_iff cfg.noteTable (1 ≤ ·)

theorem Config.clockPositive_iff (cfg : Config) : cfg.clockPositive = true ↔ 1 ≤ cfg.clockRate := decide_eq_true_iff

theorem Config.cmpWidthInRange_iff (cfg : Config) :
    cfg.cmpWidthInRange = true ↔ 1 ≤ cfg.cmpWidth ∧ cfg.cmpWidth ≤ 32 := by
  simp only [Config.cmpWidthInRange, Bool.and_eq_true, decide_eq_true_eq]

/-- Below 2^CMP_WIDTH is at most 2^CMP_WIDTH - 1, which is how R13 writes the bound. -/
theorem Config.comparesFit_iff (cfg : Config) :
    cfg.comparesFit = true ↔ ∀ (i : Fin 32) (k : Nat), k = 0 ∨ k = 1 →
      1 ≤ Machine.compareValue cfg.clockRate cfg.noteTable[i] k ∧
        Machine.compareValue cfg.clockRate cfg.noteTable[i] k ≤ 2 ^ cfg.cmpWidth - 1 := by
  simp only [Config.comparesFit, List.all_eq_true, Bool.and_eq_true, decide_eq_true_eq, List.mem_cons,
    List.not_mem_nil, or_false, Nat.le_sub_one_iff_lt (Nat.two_pow_pos _)]
  exact vector_forall_mem_iff cfg.noteTable fun f0 => ∀ k, k = 0 ∨ k = 1 →
    1 ≤ Machine.compareValue cfg.clockRate f0 k ∧ Machine.compareValue cfg.clockRate f0 k < 2 ^ cfg.cmpWidth

/-- The check of a configuration decides R13's conditions and R12's two ranges, in the order R13 lists them. -/
theorem Config.wf_iff (cfg : Config) :
    cfg.wf = true ↔
      (∀ i j : Fin 17, cfg.pinMap[i] = cfg.pinMap[j] → i = j) ∧
      cfg.remapFrom ≤ 7 ∧
      1 ≤ cfg.msg.length ∧
      (∀ i : Fin 32, 1 ≤ cfg.noteTable[i]) ∧
      (∀ (i : Fin 32) (k : Nat), k = 0 ∨ k = 1 →
        1 ≤ Machine.compareValue cfg.clockRate cfg.noteTable[i] k ∧
          Machine.compareValue cfg.clockRate cfg.noteTable[i] k ≤ 2 ^ cfg.cmpWidth - 1) ∧
      1 ≤ cfg.clockRate ∧
      1 ≤ cfg.cmpWidth ∧ cfg.cmpWidth ≤ 32 := by
  rw [← pinMapInjective_iff, ← remapInRange_iff, ← msgNonempty_iff, ← notesPositive_iff, ← comparesFit_iff,
    ← clockPositive_iff, ← cmpWidthInRange_iff]
  simp only [Config.wf, Bool.and_eq_true]
  tauto

end Sys2Proof

namespace Sys2Proof.Machine

/-! No step refuses: every command has a meaning, and the SCAN agent's only stop is a fault. -/

theorem exec_ne_refused (i : Instr) (s : State) (r : Refusal) : exec i s ≠ .refused r := by
  obtain ⟨-, h⟩ | ⟨-, -, h⟩ := exec_cases i s <;> simp [h]

theorem hostStep_ne_refused (w : Word) (s : State) (r : Refusal) : hostStep w s ≠ .refused r := by
  obtain ⟨-, h⟩ | ⟨i, -, h⟩ := hostStep_cases w s
  · simp [h]
  · exact h ▸ exec_ne_refused i s r

theorem scanStep_ne_refused (s : State) (r : Refusal) : scanStep s ≠ .refused r := by
  unfold scanStep
  split
  · simp
  · split <;> simp

/-- A refusal passes through `onNext` unchanged. -/
theorem onNext_eq_refused {f : State → State} {o : Outcome} {r : Refusal} : onNext f o = .refused r ↔ o = .refused r := by
  cases o <;> simp [onNext]

theorem agentStep_ne_refused (cfg : WfConfig) (s : State) (r : Refusal) : agentStep cfg s ≠ .refused r := by
  unfold agentStep
  split
  · simp
  · split
    · simp
    · split
      · exact scanStep_ne_refused s r
      · split
        · exact hostStep_ne_refused _ _ r
        · split
          · exact mt onNext_eq_refused.mp (hostStep_ne_refused _ _ r)
          · split <;> simp

theorem stepWith_ne_refused (cfg : WfConfig) (sched : Nat → Turn) (s : State) (r : Refusal) :
    stepWith cfg sched s ≠ .refused r := by
  unfold stepWith
  split
  · simp
  · simp
  · rename_i r' h
    exact absurd h (agentStep_ne_refused cfg s r')

/-- Under a configuration that passes its check the run is `stepWith`'s. -/
theorem stepUnder_of_wf {cfg : Config} (h : cfg.wf = true) (sched : Nat → Turn) (s : State) :
    stepUnder cfg sched s = stepWith ⟨cfg, h⟩ sched s := dif_pos h

theorem stepUnder_eq_refused_iff {cfg : Config} {sched : Nat → Turn} {s : State} :
    stepUnder cfg sched s = .refused .illFormedConfig ↔ ¬cfg.wf = true := by
  constructor
  · intro h hwf
    rw [stepUnder_of_wf hwf] at h
    exact stepWith_ne_refused _ sched s _ h
  · exact fun h => dif_neg h

/-- Settles O59: the check decides R13's conditions (`Config.wf_iff`), and since no step refuses, `stepUnder` refuses by name
exactly where the check fails. -/
theorem illFormedConfigurationIsRefused : Obligations.IllFormedConfigurationIsRefused := by
  refine ⟨fun cfg sched s => ⟨?_, fun h => ?_⟩, fun s => (stepUnder_of_wf Config.board.ok Config.freeTurn s).symm⟩
  · exact stepUnder_eq_refused_iff.trans (not_congr cfg.wf_iff)
  · have hwf : cfg.wf = true := not_not.mp (mt stepUnder_eq_refused_iff.mpr h)
    exact ⟨hwf, stepUnder_of_wf hwf sched s⟩

end Sys2Proof.Machine
end

section
/-! SUPPORT and the settled statements on the invariants: what a command's effect leaves alone, the induction over a step
packaged once (`BlockInvariant.step`), and each invariant held to it. -/

namespace Sys2Proof.Machine

/-! ## What a HOST step can do, and what a command's effect leaves alone -/

/-- Everything a HOST step can do: one of the two fault records, or the effect of a command the gate lets through. -/
theorem hostStep_next_cases {w : Word} {s t : State} (h : hostStep w s = .next t) :
    (isLegal w = false ∧ t = raiseFault .illegalCommand w s) ∨
      (∃ i, isGated i = true ∧ s.initDone = false ∧ t = raiseFault .notInitialised (encode i) s) ∨
      ∃ i, (isGated i = false ∨ s.initDone = true) ∧ t = effectOf i s := by
  obtain ⟨hw, hs⟩ | ⟨i, -, hs⟩ := hostStep_cases w s
  · exact .inl ⟨hw, Host.Outcome.next.inj (h.symm.trans hs)⟩
  · obtain ⟨hg, he⟩ | ⟨hg, hd, he⟩ := exec_cases i s
    · exact .inr (.inr ⟨i, hg, Host.Outcome.next.inj (h.symm.trans (hs.trans he))⟩)
    · exact .inr (.inl ⟨i, hg, hd, Host.Outcome.next.inj (h.symm.trans (hs.trans he))⟩)

/-- No command writes the tone counters (R81). -/
theorem effectOf_toneSame (i : Instr) (s : State) : ToneSame s (effectOf i s) := by
  cases i <;> exact ⟨rfl, rfl, rfl⟩

/-- No command that the gate lets through touches the fault record. -/
theorem effectOf_faultSame (i : Instr) (s : State) : FaultSame s (effectOf i s) := by
  cases i <;> exact ⟨rfl, rfl⟩

/-- No command clears TONE_EN (R192). -/
theorem toneEn_of_effectOf {i : Instr} {s : State} (h : (effectOf i s).toneEn = false) : s.toneEn = false := by
  cases i with
  | toneStart => cases h
  | nop | init | wrbuf | rdbuf | scan => exact h

@[simp] theorem effectOf_hostC (i : Instr) (s : State) : (effectOf i s).hostC = s.hostC := by cases i <;> rfl

@[simp] theorem effectOf_hostPh (i : Instr) (s : State) : (effectOf i s).hostPh = s.hostPh := by cases i <;> rfl

@[simp] theorem effectOf_program (i : Instr) (s : State) : (effectOf i s).program = s.program := by cases i <;> rfl

/-- A HOST step leaves the host counters and HOST's place in its program alone (R296). -/
theorem hostStep_host {w : Word} {s t : State} (h : hostStep w s = .next t) :
    t.hostC = s.hostC ∧ t.hostPh = s.hostPh ∧ t.program = s.program := by
  obtain ⟨-, rfl⟩ | ⟨i, -, -, rfl⟩ | ⟨i, -, rfl⟩ := hostStep_next_cases h <;> simp

/-- A SCAN step leaves the host counters and HOST's place in its program alone (R296). -/
theorem scanStep_host {s t : State} (h : scanStep s = .next t) :
    t.hostC = s.hostC ∧ t.hostPh = s.hostPh ∧ t.program = s.program := by
  obtain ⟨-, rfl⟩ | ⟨-, rfl⟩ := scanStep_cases h <;> simp

/-! ## Invariants of the block's own state -/

/-- The two states agree on the block's own state (R32 to R46), whatever HOST and the schedule are at. -/
structure BlockSame (s t : State) : Prop where
  display : DisplaySame s t
  tone : ToneSame s t
  toneEn : t.toneEn = s.toneEn
  fault : FaultSame s t

/-- `P` speaks of the block's own state alone and is kept by each way an agent can move from an unfaulted state: a tick, a
slot step, the end of a frame, the two fault records, and the effect of a command that HOST may issue. -/
structure BlockInvariant (cfg : WfConfig) (P : State → Prop) : Prop where
  congr : ∀ {s t}, BlockSame s t → P s → P t
  tick : ∀ {s}, s.toneEn = true → P s → P (tick cfg s)
  slot : ∀ {s}, s.scanActive = true → s.scanPos.toNat < 8 → P s → P (slotStep (s.scanPos.setWidth 3) s)
  frameEnd : ∀ {s}, s.scanActive = true → P s → P (endOfFrame s)
  illegal : ∀ {w s}, isLegal w = false → P s → P (raiseFault .illegalCommand w s)
  shut : ∀ {i s}, isGated i = true → s.initDone = false → P s → P (raiseFault .notInitialised (encode i) s)
  effect : ∀ {i s}, s.fault = .noFault → s.scanActive = false → (isGated i = false ∨ s.initDone = true) → P s →
    P (effectOf i s)

/-- Coming by its next command, HOST touches nothing of the block. -/
theorem nextCommand_blockSame {cfg : WfConfig} {s u : State} {i : Instr} (h : nextCommand cfg s = some (i, u)) :
    BlockSame s u := by
  rw [nextCommand_block h]
  exact ⟨⟨rfl, rfl, rfl, rfl, rfl, rfl, rfl⟩, ⟨rfl, rfl, rfl⟩, rfl, ⟨rfl, rfl⟩⟩

/-- The end of a HOST step touches nothing of the block. -/
theorem endCall_blockSame (cfg : WfConfig) (s : State) : BlockSame s (endCall cfg s) := by
  rw [endCall_block]
  exact ⟨⟨rfl, rfl, rfl, rfl, rfl, rfl, rfl⟩, ⟨rfl, rfl, rfl⟩, rfl, ⟨rfl, rfl⟩⟩

/-- The draw of the next turn touches nothing of the block. -/
theorem reschedule_blockSame (sched : Nat → Turn) (s : State) : BlockSame s (reschedule sched s) :=
  ⟨⟨rfl, rfl, rfl, rfl, rfl, rfl, rfl⟩, ⟨rfl, rfl, rfl⟩, rfl, ⟨rfl, rfl⟩⟩

/-- Taking a word off the pending ones touches nothing of the block. -/
theorem pending_blockSame (s : State) (ws : List Word) : BlockSame s { s with pending := ws } :=
  ⟨⟨rfl, rfl, rfl, rfl, rfl, rfl, rfl⟩, ⟨rfl, rfl, rfl⟩, rfl, ⟨rfl, rfl⟩⟩

namespace BlockInvariant

variable {cfg : WfConfig} {P : State → Prop}

theorem hostStep (hP : BlockInvariant cfg P) {w : Word} {s t : State} (hf : s.fault = .noFault)
    (ha : s.scanActive = false) (hs : P s) (h : Machine.hostStep w s = .next t) : P t := by
  obtain ⟨hw, rfl⟩ | ⟨i, hg, hd, rfl⟩ | ⟨i, hg, rfl⟩ := hostStep_next_cases h
  · exact hP.illegal hw hs
  · exact hP.shut hg hd hs
  · exact hP.effect hf ha hg hs

theorem scanStep (hP : BlockInvariant cfg P) {s t : State} (ha : s.scanActive = true) (hs : P s)
    (h : Machine.scanStep s = .next t) : P t := by
  obtain ⟨hp, rfl⟩ | ⟨-, rfl⟩ := scanStep_cases h
  · exact hP.slot ha hp hs
  · exact hP.frameEnd ha hs

theorem agentStep (hP : BlockInvariant cfg P) {s t : State} (hs : P s) (h : Machine.agentStep cfg s = .next t) :
    P t := by
  obtain ⟨hf, ⟨ht, rfl⟩ | ⟨ha, hst⟩ | ⟨ha, w, rest, -, hst⟩ | ⟨ha, -, i, u, v, hn, hst, rfl⟩ | ⟨-, -, -, -, rfl⟩⟩ :=
    agentStep_cases h
  · exact hP.tick ht hs
  · exact hP.scanStep ha hs hst
  · exact hP.hostStep (s := { s with pending := rest }) hf ha (hP.congr (pending_blockSame s rest) hs) hst
  · have hu := nextCommand_blockSame hn
    obtain ⟨-, -, -, hua, -⟩ := hu.display
    exact hP.congr (endCall_blockSame cfg v)
      (hP.hostStep (hu.fault.1.trans hf) (hua.trans ha) (hP.congr hu hs) hst)
  · exact hs

/-- The induction over a step: a block invariant is kept by every step, under every schedule. -/
theorem step (hP : BlockInvariant cfg P) {sched : Nat → Turn} {s t : State} (hs : P s)
    (h : stepWith cfg sched s = .next t) : P t := by
  obtain ⟨u, hu, rfl⟩ := stepWith_cases h
  exact hP.congr (reschedule_blockSame sched u) (hP.agentStep hs hu)

end BlockInvariant

/-! ## The display invariants (R38, R40, R41) -/

/-- The display invariants speak of the display state alone. -/
theorem displayInv_congr {s t : State} (h : DisplaySame s t) (hs : DisplayInv s) : DisplayInv t := by
  obtain ⟨hbuf, hinit, hout, hact, hpos, hdig, hseg⟩ := h
  obtain ⟨mem, posRange, lit, dark, between, inFrameFirst, inFrame, driven, ready⟩ := hs
  constructor <;> simpa only [memRead, hbuf, hinit, hout, hact, hpos, hdig, hseg]

/-- Between frames the display invariants come to R41, the canonical buffer, and lines driven since INIT. -/
theorem displayInv_between {s : State} (hmem : Memory.wf s.buf = true) (ha : s.scanActive = false)
    (hdig : s.digSel = none) (hseg : s.segOut = 0x00) (hpos : s.scanPos = 0) (hout : s.outEn = s.initDone) :
    DisplayInv s where
  mem := hmem
  posRange := by simp [hpos]
  lit p h := by simp [hdig] at h
  dark _ := hseg
  between _ := ⟨hdig, hseg, hpos⟩
  inFrameFirst h := by simp [ha] at h
  inFrame h := by simp [ha] at h
  driven := hout
  ready h := by simp [ha] at h

/-- The slot step lights its digit with its own entry and moves SCAN_POS past it (R155). -/
theorem displayInv_slotStep {s : State} (ha : s.scanActive = true) (hp : s.scanPos.toNat < 8) (hs : DisplayInv s) :
    DisplayInv (slotStep (s.scanPos.setWidth 3) s) := by
  have hpos : (slotStep (s.scanPos.setWidth 3) s).scanPos.toNat = s.scanPos.toNat + 1 := slotPos_toNat hp
  constructor
  case mem => exact hs.mem
  case posRange => omega
  case lit =>
    rintro p ⟨⟩
    rfl
  case dark => exact nofun
  case between => simp [ha]
  case inFrameFirst =>
    intro _ h
    rw [h] at hpos
    simp at hpos
  case inFrame => simp
  case driven => exact hs.driven
  case ready => exact hs.ready

/-- SCAN starts a frame at position 0, with nothing selected yet (R150). -/
theorem displayInv_setScan {s : State} (ha : s.scanActive = false) (hd : s.initDone = true) (hs : DisplayInv s) :
    DisplayInv (setScan 0 true s) where
  mem := hs.mem
  posRange := by simp
  lit := hs.lit
  dark := hs.dark
  between h := nomatch h
  inFrameFirst _ _ := (hs.between ha).1
  inFrame _ h := absurd rfl h
  driven := hs.driven
  ready _ := hd

/-- A command comes between frames, where no digit is lit: so INIT and WRBUF change no entry on show, and SCAN is the only
one that starts a frame. -/
theorem displayInv_effectOf {i : Instr} {s : State} (ha : s.scanActive = false)
    (hg : isGated i = false ∨ s.initDone = true) (hs : DisplayInv s) : DisplayInv (effectOf i s) := by
  obtain ⟨hdig, hseg, hpos⟩ := hs.between ha
  cases i with
  | nop | rdbuf | toneStart =>
    refine displayInv_congr ?_ hs
    exact ⟨rfl, rfl, rfl, rfl, rfl, rfl, rfl⟩
  | init => exact displayInv_between (clearBuf_wf hs.mem) ha rfl rfl hpos rfl
  | wrbuf slot mask => exact displayInv_between (memWrite_wf slot mask hs.mem) ha hdig hseg hpos hs.driven
  | scan => exact displayInv_setScan ha (hg.resolve_left (by simp [isGated])) hs

theorem displayInv_blockInvariant (cfg : WfConfig) : BlockInvariant cfg DisplayInv where
  congr h := displayInv_congr h.display
  tick _ := displayInv_congr ⟨rfl, rfl, rfl, rfl, rfl, rfl, rfl⟩
  slot := displayInv_slotStep
  frameEnd _ hs := displayInv_between hs.mem rfl rfl rfl rfl hs.driven
  illegal _ := displayInv_congr ⟨rfl, rfl, rfl, rfl, rfl, rfl, rfl⟩
  shut _ _ := displayInv_congr ⟨rfl, rfl, rfl, rfl, rfl, rfl, rfl⟩
  effect _ := displayInv_effectOf

/-- Settles O55: the display invariants are kept by each way the block can move (`displayInv_blockInvariant`). -/
theorem stepKeepsTheDisplayInvariants : Obligations.StepKeepsTheDisplayInvariants :=
  fun _ _ hs h => (displayInv_blockInvariant Config.board).step hs h

/-! ## The tone invariants (R43, R44, R47) -/

/-- The tone invariants speak of the tone counters, and of TONE_EN only while it is clear. -/
theorem toneInv_congr {cfg : WfConfig} {s t : State} (h : ToneSame s t) (hen : t.toneEn = false → s.toneEn = false)
    (hs : ToneInv cfg s) : ToneInv cfg t := by
  obtain ⟨ht, hcmp, hvalid⟩ := h
  obtain ⟨tRange, valid, range, last, fresh, silent⟩ := hs
  refine ⟨?_, ?_, ?_, ?_, ?_, fun h => hcmp.trans (silent (hen h))⟩ <;> simpa only [ht, hcmp, hvalid]

/-- Every compare value a tick can program is in CMP's range (R202, R13). -/
theorem compareAt_range (cfg : WfConfig) (t : Nat) :
    1 ≤ compareAt cfg.config t ∧ compareAt cfg.config t < 2 ^ cfg.config.cmpWidth :=
  compare_in_range cfg (noteFrequency_mem cfg.config t) (octaveBit_lt t)

/-- CMP holds the compare value of a tick without truncation (R44, R202). -/
theorem compareAt_toNat (cfg : WfConfig) (t : Nat) :
    (BitVec.ofNat 32 (compareAt cfg.config t)).toNat = compareAt cfg.config t := by
  rw [BitVec.toNat_ofNat]
  refine Nat.mod_eq_of_lt ((compareAt_range cfg t).2.trans_le ?_)
  exact Nat.pow_le_pow_right (by decide) (cmpWidth_le cfg)

/-- T after a tick, as a number (R43). -/
theorem tick_t_toNat (cfg : WfConfig) (s : State) : (tick cfg s).t.toNat = nextTick s.t.toNat := by
  have hlt : nextTick s.t.toNat < tMod := Nat.mod_lt _ (by decide)
  rw [tick_t, BitVec.toNat_ofNat]
  exact Nat.mod_eq_of_lt (hlt.trans (by decide))

/-- The tick before T = (t + 1) mod 768 read t (R195). -/
theorem lastTick_nextTick {t : Nat} (h : t < tMod) : (nextTick t + 767) % tMod = t := by
  simp only [nextTick, tMod] at h ⊢
  omega

/-- A tick leaves in CMP the compare value of the T it read (R195). -/
theorem toneInv_tick {cfg : WfConfig} {s : State} (he : s.toneEn = true) (hs : ToneInv cfg s) :
    ToneInv cfg (tick cfg s) where
  tRange := (tick_t_toNat cfg s).trans_lt (Nat.mod_lt _ (by decide))
  valid := rfl
  range := by
    rintro c ⟨⟩
    rw [compareAt_toNat]
    exact compareAt_range cfg _
  last := by
    rintro c ⟨⟩
    rw [compareAt_toNat, tick_t_toNat, lastTick_nextTick hs.tRange]
  fresh h := nomatch h
  silent h := nomatch he.symm.trans h

theorem toneInv_blockInvariant (cfg : WfConfig) : BlockInvariant cfg (ToneInv cfg) where
  congr h := toneInv_congr h.tone h.toneEn.symm.trans
  tick := toneInv_tick
  slot _ _ := toneInv_congr ⟨rfl, rfl, rfl⟩ id
  frameEnd _ := toneInv_congr ⟨rfl, rfl, rfl⟩ id
  illegal _ := toneInv_congr ⟨rfl, rfl, rfl⟩ id
  shut _ _ := toneInv_congr ⟨rfl, rfl, rfl⟩ id
  effect _ _ _ := toneInv_congr (effectOf_toneSame _ _) toneEn_of_effectOf

/-- Settles O56: only a tick writes the tone counters, and it keeps their invariants (`toneInv_tick`). -/
theorem stepKeepsTheToneInvariants : Obligations.StepKeepsTheToneInvariants :=
  fun _ _ hs h => (toneInv_blockInvariant Config.board).step hs h

/-! ## The fault record (R46, R280) -/

/-- The fault invariant speaks of the fault record and INIT_DONE alone. -/
theorem faultInv_congr {s t : State} (h : FaultSame s t) (hd : t.initDone = s.initDone) (hs : FaultInv s) :
    FaultInv t := by
  obtain ⟨hf, hc⟩ := h
  obtain ⟨record, illegal, uninit⟩ := hs
  constructor <;> simpa only [hf, hc, hd]

/-- In an unfaulted state the fault invariant comes to an empty FAULT_CMD. -/
theorem faultInv_unfaulted {s : State} (hf : s.fault = .noFault) (hc : s.faultCmd = none) : FaultInv s := by
  constructor <;> simp [hf, hc]

/-- An illegal word is a word that raises ILLEGAL_COMMAND (R281). -/
theorem faultInv_illegal {w : Word} (hw : isLegal w = false) (s : State) :
    FaultInv (raiseFault .illegalCommand w s) := by
  constructor <;> simp [hw]

/-- A gated command before INIT raises NOT_INITIALISED (R282). -/
theorem faultInv_shut {i : Instr} (hg : isGated i = true) {s : State} (hd : s.initDone = false) :
    FaultInv (raiseFault .notInitialised (encode i) s) := by
  constructor
  case record => simp
  case illegal => simp
  case uninit => exact fun _ => ⟨hd, i, rfl, hg⟩

theorem faultInv_blockInvariant (cfg : WfConfig) : BlockInvariant cfg FaultInv where
  congr h := faultInv_congr h.fault h.display.2.1
  tick _ := faultInv_congr ⟨rfl, rfl⟩ rfl
  slot _ _ := faultInv_congr ⟨rfl, rfl⟩ rfl
  frameEnd _ := faultInv_congr ⟨rfl, rfl⟩ rfl
  illegal hw _ := faultInv_illegal hw _
  shut hg hd _ := faultInv_shut hg hd
  effect hf _ _ hs :=
    have ⟨hf', hc'⟩ := effectOf_faultSame _ _
    faultInv_unfaulted (hf'.trans hf) (hc'.trans (hs.record.mp hf))

/-- Settles O57: a step starts unfaulted, and each of the two fault records names a word that raises its code. -/
theorem stepKeepsTheFaultRecord : Obligations.StepKeepsTheFaultRecord :=
  fun _ _ hs h => (faultInv_blockInvariant Config.board).step hs h

/-! ## The host counters (R48) -/

/-- With the counters as they were, it is left to show where HOST stands. -/
theorem hostInv_of_counters {cfg : WfConfig} {s t : State} (hs : HostInv cfg s) (hc : t.hostC = s.hostC)
    (hph : t.hostPh = s.hostPh) (hw : t.fault = .noFault → t.program ≠ .calling []) : HostInv cfg t :=
  ⟨hc ▸ hs.c, hph ▸ hs.ph, hw⟩

theorem nextC_lt (cfg : WfConfig) (c : Nat) : nextC cfg c < scrollN * cfg.config.msgLength :=
  Nat.mod_lt _ (Nat.mul_pos (by decide) (msgLength_pos cfg))

theorem nextPh_lt (ph : Nat) : nextPh ph < nDigits * waveK := Nat.mod_lt _ (by decide)

/-- The end of a HOST step writes the counter that is due (log 11), so what it leaves meets R48. -/
theorem hostInv_endCall {cfg : WfConfig} {s : State} (hc : s.hostC < scrollN * cfg.config.msgLength)
    (hph : s.hostPh < nDigits * waveK) : HostInv cfg (endCall cfg s) := by
  obtain ⟨-, -, h⟩ | ⟨hn, h⟩ := endCall_cases cfg s <;> rw [h]
  · refine ⟨?_, ?_, fun _ => nofun⟩
    · dsimp only
      split
      · exact nextC_lt cfg _
      · exact hc
    · dsimp only
      split
      · exact nextPh_lt _
      · exact hph
  · exact ⟨hc, hph, fun hf hp => hn ⟨hp, hf⟩⟩

theorem hostInv_agentStep {cfg : WfConfig} {s t : State} (hs : HostInv cfg s) (h : agentStep cfg s = .next t) :
    HostInv cfg t := by
  obtain ⟨hf, ⟨-, rfl⟩ | ⟨-, hst⟩ | ⟨-, w, rest, -, hst⟩ | ⟨-, -, i, u, v, hn, hst, rfl⟩ | ⟨-, -, -, -, rfl⟩⟩ :=
    agentStep_cases h
  · exact hostInv_of_counters hs rfl rfl hs.written
  · obtain ⟨hc, hph, hp⟩ := scanStep_host hst
    exact hostInv_of_counters hs hc hph fun _ => hp ▸ hs.written hf
  · obtain ⟨hc, hph, hp⟩ := hostStep_host hst
    exact hostInv_of_counters hs hc hph fun _ => hp ▸ hs.written hf
  · obtain ⟨hc, hph, -⟩ := hostStep_host hst
    obtain ⟨huc, huph⟩ := nextCommand_counters hs hf hn
    exact hostInv_endCall (hc.trans huc ▸ hs.c) (hph.trans huph ▸ hs.ph)
  · exact hs

/-- Settles O58: only the end of an animation step writes a counter, and it does so with that step's last command
(`hostInv_endCall`). -/
theorem stepKeepsTheHostCounters : Obligations.StepKeepsTheHostCounters := by
  intro s t hs h
  obtain ⟨u, hu, rfl⟩ := stepWith_cases h
  have hinv := hostInv_agentStep hs hu
  exact hostInv_of_counters hinv rfl rfl hinv.written

/-! ## Reset (R49) -/

/-- Settles O52, field by field. -/
theorem resetValues : Obligations.ResetValues :=
  ⟨fun _ => rfl, rfl, rfl, rfl, rfl, rfl, rfl, rfl, rfl, rfl, rfl, rfl, rfl⟩

theorem displayInv_reset : DisplayInv State.reset := displayInv_between rfl rfl rfl rfl rfl rfl

theorem faultInv_reset : FaultInv State.reset := faultInv_unfaulted rfl rfl

/-- HOST starts in MAIN with INIT first and no RDBUF to issue (R322, R247, R248). -/
theorem mainInv_reset : MainInv State.reset where
  unfaulted := rfl
  posRange := by decide
  alone := rfl
  isMain := nofun
  noRead := by simp [State.reset, commandsLeft]
  initFirst := .inr rfl

theorem toneInv_reset (cfg : WfConfig) : ToneInv cfg State.reset where
  tRange := by decide
  valid := rfl
  range := nofun
  last := nofun
  fresh _ := rfl
  silent _ := rfl

theorem hostInv_reset (cfg : WfConfig) : HostInv cfg State.reset where
  c := Nat.mul_pos (by decide) (msgLength_pos cfg)
  ph := by decide
  written _ := nofun

/-- Settles O54, invariant by invariant. -/
theorem resetMeetsTheInvariants : Obligations.ResetMeetsTheInvariants :=
  ⟨displayInv_reset, faultInv_reset, mainInv_reset, fun cfg => ⟨toneInv_reset cfg, hostInv_reset cfg⟩⟩

end Sys2Proof.Machine
end

section
/-! SUPPORT and the settled statements of 20_memory.md: a command repeated (R76), a tick against the display (R81), and the
pin of each logical line (R78). -/

namespace Sys2Proof.Machine

/-! ## A command repeated (R76) -/

/-- INIT's clearing takes out the entries of all eight addresses, whatever form the buffer is in. -/
theorem clearBuf_buf (s : State) : (clearBuf s).buf = s.buf.filter fun cell => decide (8 ≤ cell.1) := by
  simp only [clearBuf, slots, List.foldl_cons, List.foldl_nil, memWrite, Memory.write, Memory.erase, if_true,
    List.filter_filter]
  refine List.filter_congr fun cell _ => ?_
  rw [Bool.eq_iff_iff]
  simp only [Bool.and_eq_true, decide_eq_true_eq, BitVec.ofNat_eq_ofNat, BitVec.toNat_ofNat]
  omega

theorem clearBuf_clearBuf (s : State) : (clearBuf (clearBuf s)).buf = (clearBuf s).buf := by
  simp only [clearBuf_buf, List.filter_filter, Bool.and_self]

/-- Writing a byte a second time leaves the same list, the canonical form being unique (`ext_of_wf`). -/
theorem write_write_self {m : Memory} {a : Nat} (v : Byte) (h : Memory.wf m = true) (ha : a < nDigits) :
    Memory.write (Memory.write m a v) a v = Memory.write m a v := by
  refine ext_of_wf (wf_write v (wf_write v h ha) ha) (wf_write v h ha) fun c => ?_
  simp only [read_write]
  split <;> rfl

theorem effectOf_init_idem (s : State) : effectOf .init (effectOf .init s) = effectOf .init s :=
  congrArg (fun m => { effectOf .init s with buf := m }) (clearBuf_clearBuf s)

theorem effectOf_wrbuf_idem (a : Slot) (v : Byte) {s : State} (h : Memory.wf s.buf = true) :
    effectOf (.wrbuf a v) (effectOf (.wrbuf a v) s) = effectOf (.wrbuf a v) s :=
  congrArg (fun m => { s with buf := m }) (write_write_self v h a.isLt)

/-- Where the gate is open a command's next state is its effect. -/
theorem eq_effectOf_of_exec {i : Instr} {s t : State} (hg : isGated i = false ∨ s.initDone = true)
    (h : exec i s = .next t) : t = effectOf i s :=
  Host.Outcome.next.inj (h.symm.trans (exec_ready hg))

/-- A command that the gate let through finds it open again (R34: only reset clears INIT_DONE). -/
theorem gateOpen_effectOf {i : Instr} {s : State} (hg : isGated i = false ∨ s.initDone = true) :
    isGated i = false ∨ (effectOf i s).initDone = true := by
  cases i with
  | init => exact .inl rfl
  | nop | wrbuf | rdbuf | scan | toneStart => exact hg

/-- A command whose effect is idempotent leaves the same state when repeated. -/
theorem exec_repeat {i : Instr} {s t : State} (hidem : effectOf i (effectOf i s) = effectOf i s)
    (hg : isGated i = false ∨ s.initDone = true) (h : exec i s = .next t) : exec i t = .next t := by
  rw [eq_effectOf_of_exec hg h, exec_ready (gateOpen_effectOf hg), hidem]

/-- Settles O8: a repeated command has its effect once more; INIT's and WRBUF's are idempotent (`exec_repeat`), and RDBUF
reads an entry that it does not write. -/
theorem repeatsAreIdempotent : Obligations.RepeatsAreIdempotent := by
  refine ⟨fun s t => exec_repeat (effectOf_init_idem s) (.inl rfl), fun s t p hd h => ?_,
    fun s t p v hd hwf => exec_repeat (effectOf_wrbuf_idem p v hwf) (.inr hd)⟩
  obtain rfl := eq_effectOf_of_exec (.inr hd) h
  exact ⟨rfl, exec_ready (gateOpen_effectOf (.inr hd))⟩

/-! ## A tick against the display (R81, R201) -/

/-- No command's effect reads the tone counters, and a tick reads nothing else. -/
theorem tick_effectOf (cfg : WfConfig) (i : Instr) (s : State) :
    tick cfg (effectOf i s) = effectOf i (tick cfg s) := by
  cases i <;> rfl

theorem tick_raiseFault (cfg : WfConfig) (code : FaultCode) (w : Word) (s : State) :
    tick cfg (raiseFault code w s) = raiseFault code w (tick cfg s) := rfl

theorem tick_slotStep (cfg : WfConfig) (p : Slot) (s : State) :
    tick cfg (slotStep p s) = slotStep p (tick cfg s) := rfl

theorem tick_endOfFrame (cfg : WfConfig) (s : State) : tick cfg (endOfFrame s) = endOfFrame (tick cfg s) := rfl

/-- A tick commutes with every command: the gate reads INIT_DONE, which a tick leaves alone. -/
theorem onNext_tick_exec (cfg : WfConfig) (i : Instr) (s : State) :
    onNext (tick cfg) (exec i s) = exec i (tick cfg s) := by
  obtain ⟨hg, h⟩ | ⟨hg, hd, h⟩ := exec_cases i s
  · rw [h, onNext_next, tick_effectOf]
    exact (exec_ready (s := tick cfg s) hg).symm
  · rw [h, onNext_next, tick_raiseFault]
    exact (exec_shut (s := tick cfg s) hg hd).symm

/-- Above position 8 the SCAN agent has no step (R152, log 7). -/
theorem scanStep_outOfRange {s : State} (h : 8 < s.scanPos.toNat) :
    scanStep s = .fault (.scanPosOutOfRange s.scanPos) := by
  rw [scanStep, if_neg (by omega), if_neg (by omega)]

/-- A tick commutes with every SCAN step, and with the stop above position 8. -/
theorem onNext_tick_scanStep (cfg : WfConfig) (s : State) :
    onNext (tick cfg) (scanStep s) = scanStep (tick cfg s) := by
  obtain hp | hp | hp := Nat.lt_trichotomy s.scanPos.toNat 8
  · rw [scanStep_slot hp, onNext_next, tick_slotStep]
    exact (scanStep_slot (s := tick cfg s) hp).symm
  · rw [scanStep_end hp, onNext_next, tick_endOfFrame]
    exact (scanStep_end (s := tick cfg s) hp).symm
  · rw [scanStep_outOfRange hp]
    exact (scanStep_outOfRange (s := tick cfg s) hp).symm

/-- A command never writes the tone counters, whether the gate lets it through or not. -/
theorem toneSame_of_exec {i : Instr} {s t : State} (h : exec i s = .next t) : ToneSame s t := by
  obtain ⟨-, he⟩ | ⟨-, -, he⟩ := exec_cases i s <;> obtain rfl := Host.Outcome.next.inj (h.symm.trans he)
  · exact effectOf_toneSame i s
  · exact ⟨rfl, rfl, rfl⟩

/-- A SCAN step never writes the tone counters. -/
theorem toneSame_of_scanStep {s t : State} (h : scanStep s = .next t) : ToneSame s t := by
  obtain ⟨-, rfl⟩ | ⟨-, rfl⟩ := scanStep_cases h <;> exact ⟨rfl, rfl, rfl⟩

/-- Settles O34: both sides of a tick read and write apart, case by case of a command and of a SCAN step. -/
theorem ticksCommuteWithTheDisplay : Obligations.TicksCommuteWithTheDisplay := by
  refine fun cfg s => ⟨fun i => onNext_tick_exec cfg i s, onNext_tick_scanStep cfg s, fun i t => toneSame_of_exec,
    fun t => toneSame_of_scanStep, ?display, ?host, ?fault, ?turn⟩
  case display => exact ⟨rfl, rfl, rfl, rfl, rfl, rfl, rfl⟩
  case host => exact ⟨rfl, rfl, rfl, rfl, rfl⟩
  case fault => exact ⟨rfl, rfl⟩
  case turn => exact ⟨rfl, rfl⟩

/-! ## The pin of a logical line (R78, R13) -/

/-- `lineIndex` numbers the lines as `allLines` lists them. -/
theorem allLines_lineIndex (line : Line) : allLines[(lineIndex line).val]? = some line := by
  cases line with
  | a i | b i | x i | y i => revert i; decide
  | audio => rfl

theorem mem_allLines (line : Line) : line ∈ allLines := List.mem_of_getElem? (allLines_lineIndex line)

theorem lineIndex_injective : Function.Injective lineIndex := fun l l' h =>
  Option.some.inj ((allLines_lineIndex l).symm.trans (h ▸ allLines_lineIndex l'))

/-- Two lines on one pin are one line (R13). -/
theorem line_eq_of_pin_eq (cfg : WfConfig) {l l' : Line}
    (h : cfg.config.pinMap[lineIndex l] = cfg.config.pinMap[lineIndex l']) : l = l' :=
  lineIndex_injective (cfg.config.pinMapInjective_iff.mp (wf_checks cfg).1 _ _ h)

/-- A search finds the one element of the list that passes its test. -/
theorem find?_eq_some_of_unique {α : Type} {p : α → Bool} {xs : List α} {x : α} (hx : x ∈ xs) (hp : p x = true)
    (huniq : ∀ y, p y = true → y = x) : xs.find? p = some x := by
  obtain ⟨y, hy⟩ := Option.isSome_iff_exists.mp (List.find?_isSome.mpr ⟨x, hx, hp⟩)
  rw [hy, huniq y (List.find?_some hy)]

/-- The search of a line's pin among all lines finds that line. -/
theorem find_line_of_pin (cfg : WfConfig) (line : Line) :
    (allLines.find? fun l => decide (cfg.config.pinMap[lineIndex l] = cfg.config.pinMap[lineIndex line])) =
      some line :=
  find?_eq_some_of_unique (mem_allLines line) (decide_eq_true rfl)
    fun _ h => line_eq_of_pin_eq cfg (of_decide_eq_true h)

/-- Settles O41: PIN_MAP being injective, the line found at a line's pin is that line (`find_line_of_pin`). -/
theorem pinShowsItsLine : Obligations.PinShowsItsLine := by
  intro cfg draw s k line
  rw [pinLevel, find_line_of_pin, Option.map_some]

end Sys2Proof.Machine
end

section
/-! SUPPORT and the settled statements of 30_encoding.md. A word is read as its four fields (`wordOf`, R101, R102): the
table's rows, the decoder's conditions and the words of R108 are each stated in them, and a command is the same thing as its
word (`decode_eq_ok_iff`). -/

namespace Sys2Proof

open Machine

/-! ## The fields of a word (R101, R102) -/

/-- The word with these fields: OP in w[15:12], bit 11, SLOT in w[10:8] and MASK in w[7:0]. -/
def wordOf (op : BitVec 4) (b : Bool) (slot : Slot) (mask : Byte) : Word :=
  op ++ (BitVec.ofBool b ++ (slot ++ mask))

section
variable (op op' : BitVec 4) (b b' : Bool) (slot slot' : Slot) (mask mask' : Byte)

/-- Which field a bit of the word lies in. -/
theorem getLsbD_wordOf (i : Nat) :
    (wordOf op b slot mask).getLsbD i =
      if i < 12 then
        if i < 11 then if i < 8 then mask.getLsbD i else slot.getLsbD (i - 8) else (BitVec.ofBool b).getLsbD (i - 11)
      else op.getLsbD (i - 12) := by
  have h := BitVec.getLsbD_append (x := op) (y := BitVec.ofBool b ++ (slot ++ mask)) (i := i)
  rwa [BitVec.getLsbD_append (x := BitVec.ofBool b), BitVec.getLsbD_append (x := slot)] at h

@[simp] theorem opField_wordOf : opField (wordOf op b slot mask) = op := BitVec.extractLsb'_append_eq_left

@[simp] theorem getElem_11_wordOf : (wordOf op b slot mask)[11] = b := by
  rw [← BitVec.getLsbD_eq_getElem, getLsbD_wordOf]
  simp

@[simp] theorem slotField_wordOf : slotField (wordOf op b slot mask) = slot := by
  refine BitVec.eq_of_getLsbD_eq fun i hi => ?_
  simp [slotField, getLsbD_wordOf, hi, show 8 + i < 12 by omega, show 8 + i < 11 by omega]

@[simp] theorem maskField_wordOf : maskField (wordOf op b slot mask) = mask := by
  refine BitVec.eq_of_getLsbD_eq fun i hi => ?_
  simp [maskField, getLsbD_wordOf, hi, show i < 12 by omega, show i < 11 by omega]

/-- Words are equal field by field. -/
theorem wordOf_inj :
    wordOf op b slot mask = wordOf op' b' slot' mask' ↔ op = op' ∧ b = b' ∧ slot = slot' ∧ mask = mask' := by
  constructor
  · intro h
    exact ⟨by simpa using congrArg opField h, by simpa using congrArg (·[11]) h,
      by simpa using congrArg slotField h, by simpa using congrArg maskField h⟩
  · rintro ⟨rfl, rfl, rfl, rfl⟩
    rfl

/-- Masking a word masks each of its fields. -/
theorem and_wordOf :
    wordOf op b slot mask &&& wordOf op' b' slot' mask' =
      wordOf (op &&& op') (b && b') (slot &&& slot') (mask &&& mask') := by
  refine BitVec.eq_of_getLsbD_eq fun i _ => ?_
  simp only [BitVec.getLsbD_and, getLsbD_wordOf, ← BitVec.ofBool_and_ofBool]
  split_ifs <;> rfl

/-- The twelve bits below the opcode (R105). -/
theorem extractLsb'_wordOf_eq_zero :
    (wordOf op b slot mask).extractLsb' 0 12 = 0 ↔ b = false ∧ slot = 0 ∧ mask = 0 := by
  have hlow : (wordOf op b slot mask).extractLsb' 0 12 = BitVec.ofBool b ++ (slot ++ mask) :=
    BitVec.extractLsb'_append_eq_right
  rw [hlow]
  constructor
  · intro h
    exact ((wordOf_inj op op b false slot 0 mask 0).mp (congrArg (op ++ ·) h)).2
  · rintro ⟨rfl, rfl, rfl⟩
    rfl

end

/-- Words with different opcodes differ. -/
theorem wordOf_ne {op : BitVec 4} {b : Bool} {slot : Slot} {mask : Byte} {w : Word} (h : op ≠ opField w) :
    wordOf op b slot mask ≠ w := by
  rintro rfl
  exact h (opField_wordOf ..).symm

/-- A word is the word of its fields. -/
theorem wordOf_fields (w : Word) : wordOf (opField w) (w.getLsbD 11) (slotField w) (maskField w) = w := by
  refine BitVec.eq_of_getLsbD_eq fun i hi => ?_
  simp only [getLsbD_wordOf, opField, slotField, maskField, BitVec.getLsbD_extractLsb', BitVec.getLsbD_ofBool]
  interval_cases i <;> simp

/-- Every word is one of these, so a statement about words may be proved of their fields. -/
theorem exists_wordOf (w : Word) : ∃ op b slot mask, w = wordOf op b slot mask :=
  ⟨_, _, _, _, (wordOf_fields w).symm⟩

/-! ## The words of the commands (R108) and the rows they select (R103) -/

/-- R108 puts the fields in their places by shifts; bit 11 stays 0. -/
theorem or_shifts_eq_wordOf (op : BitVec 4) (slot : Slot) (mask : Byte) :
    op.setWidth 16 <<< 12 ||| (slot.setWidth 16 <<< 8) ||| mask.setWidth 16 = wordOf op false slot mask := by
  refine BitVec.eq_of_getLsbD_eq fun i hi => ?_
  simp only [getLsbD_wordOf, BitVec.getLsbD_or, BitVec.getLsbD_shiftLeft, BitVec.getLsbD_setWidth]
  interval_cases i <;> simp

theorem encode_wrbuf (slot : Slot) (mask : Byte) : encode (.wrbuf slot mask) = wordOf 2 false slot mask :=
  or_shifts_eq_wordOf 2 slot mask

theorem encode_rdbuf (slot : Slot) : encode (.rdbuf slot) = wordOf 3 false slot 0 :=
  BitVec.or_zero.symm.trans (or_shifts_eq_wordOf 3 slot 0)

/-- The WRBUF row fixes OP and bit 11. -/
theorem and_F800_eq_iff (w : Word) : w &&& 0xF800#16 = 0x2000#16 ↔ opField w = 2 ∧ w.getLsbD 11 = false := by
  obtain ⟨op, b, slot, mask, rfl⟩ := exists_wordOf w
  rw [show (0xF800#16) = wordOf (.allOnes 4) true 0 0 from rfl, and_wordOf,
    show (0x2000#16) = wordOf 2 false 0 0 from rfl, wordOf_inj, BitVec.and_allOnes]
  simp

/-- The RDBUF row fixes OP, bit 11 and MASK. -/
theorem and_F8FF_eq_iff (w : Word) :
    w &&& 0xF8FF#16 = 0x3000#16 ↔ opField w = 3 ∧ w.getLsbD 11 = false ∧ maskField w = 0 := by
  obtain ⟨op, b, slot, mask, rfl⟩ := exists_wordOf w
  rw [show (0xF8FF#16) = wordOf (.allOnes 4) true 0 (.allOnes 8) from rfl, and_wordOf,
    show (0x3000#16) = wordOf 3 false 0 0 from rfl, wordOf_inj, BitVec.and_allOnes, BitVec.and_allOnes]
  simp

/-- Every other row fixes the whole word: OP, and the bits below it at 0. -/
theorem eq_wordOf_op_iff (w : Word) (op : BitVec 4) :
    w = wordOf op false 0 0 ↔ opField w = op ∧ w.extractLsb' 0 12 = 0 := by
  obtain ⟨op', b, slot, mask, rfl⟩ := exists_wordOf w
  rw [wordOf_inj, opField_wordOf, extractLsb'_wordOf_eq_zero]

/-- A word in WRBUF's row is the word of the WRBUF with its operands. -/
theorem encode_wrbuf_fields {w : Word} (h : w &&& 0xF800#16 = 0x2000#16) :
    encode (.wrbuf (slotField w) (maskField w)) = w := by
  obtain ⟨hop, hb⟩ := (and_F800_eq_iff w).mp h
  rw [encode_wrbuf, ← hop, ← hb, wordOf_fields]

/-- A word in RDBUF's row is the word of the RDBUF with its operand. -/
theorem encode_rdbuf_fields {w : Word} (h : w &&& 0xF8FF#16 = 0x3000#16) : encode (.rdbuf (slotField w)) = w := by
  obtain ⟨hop, hb, hm⟩ := (and_F8FF_eq_iff w).mp h
  rw [encode_rdbuf, ← hop, ← hb, ← hm, wordOf_fields]

/-! ## A command and its word (R104, R108) -/

theorem decode_encode (i : Instr) : decode (encode i) = .ok i := by
  cases i with
  | nop | init | scan | toneStart => rfl
  | wrbuf slot mask =>
    rw [encode_wrbuf, decode, if_neg (wordOf_ne (by decide)), if_neg (wordOf_ne (by decide)),
      if_pos ((and_F800_eq_iff _).mpr (by simp)), slotField_wordOf, maskField_wordOf]
  | rdbuf slot =>
    have hwrbuf : ¬ wordOf 3 false slot 0 &&& 0xF800#16 = 0x2000#16 := by simp [and_F800_eq_iff]
    rw [encode_rdbuf, decode, if_neg (wordOf_ne (by decide)), if_neg (wordOf_ne (by decide)), if_neg hwrbuf,
      if_pos ((and_F8FF_eq_iff _).mpr (by simp)), slotField_wordOf]

theorem encode_of_decode {w : Word} {i : Instr} (h : decode w = .ok i) : encode i = w := by
  unfold decode at h
  split_ifs at h with hnop hinit hwrbuf hrdbuf hscan htone <;> obtain rfl := Except.ok.inj h
  · exact hnop.symm
  · exact hinit.symm
  · exact encode_wrbuf_fields hwrbuf
  · exact encode_rdbuf_fields hrdbuf
  · exact hscan.symm
  · exact htone.symm

/-- A word decodes to a command exactly if it is that command's word. -/
theorem decode_eq_ok_iff {w : Word} {i : Instr} : decode w = .ok i ↔ encode i = w :=
  ⟨encode_of_decode, fun h => h ▸ decode_encode i⟩

/-- A command has its own word. -/
theorem encode_injective : Function.Injective encode := fun i j h =>
  Except.ok.inj ((decode_encode i).symm.trans ((congrArg decode h).trans (decode_encode j)))

/-- The legal words are the commands' words. -/
theorem isLegal_iff (w : Word) : isLegal w = true ↔ ∃ i, encode i = w := by
  simp only [← decode_eq_ok_iff, isLegal]
  cases decode w <;> simp

/-- Settles O1: decoding and encoding are inverse, command by command and row by row (`decode_eq_ok_iff`). -/
theorem encodingRoundTrips : Obligations.EncodingRoundTrips :=
  ⟨decode_encode, fun _ _ => encode_of_decode⟩

/-- Settles O5: each listed command decodes from its own word (`decode_encode`). -/
theorem listedWordsDecode : Obligations.ListedWordsDecode :=
  ⟨decode_encode .nop, decode_encode .init, decode_encode (.wrbuf 0 0x00), decode_encode (.wrbuf 3 0x81),
    decode_encode (.wrbuf 7 0xFF), decode_encode (.rdbuf 0), decode_encode (.rdbuf 7), decode_encode .scan,
    decode_encode .toneStart, by decide⟩

/-! ## The rows of the table (R103) -/

/-- A row that fixes all sixteen bits is selected by its match word alone. -/
theorem selectsRow_fixed (mnemonic : String) (v w : Word) : selectsRow w ⟨mnemonic, v, 0xFFFF⟩ = true ↔ w = v := by
  rw [selectsRow, decide_eq_true_iff]
  exact iff_of_eq (congrArg (· = v) BitVec.and_allOnes)

/-- WRBUF's row is selected by the words of WRBUF. -/
theorem selectsRow_wrbuf (w : Word) :
    selectsRow w ⟨"WRBUF", 0x2000, 0xF800⟩ = true ↔ ∃ slot mask, encode (.wrbuf slot mask) = w := by
  rw [selectsRow, decide_eq_true_iff]
  constructor
  · exact fun h => ⟨_, _, encode_wrbuf_fields h⟩
  · rintro ⟨slot, mask, rfl⟩
    exact (and_F800_eq_iff _).mpr (by simp [encode_wrbuf])

/-- RDBUF's row is selected by the words of RDBUF. -/
theorem selectsRow_rdbuf (w : Word) :
    selectsRow w ⟨"RDBUF", 0x3000, 0xF8FF⟩ = true ↔ ∃ slot, encode (.rdbuf slot) = w := by
  rw [selectsRow, decide_eq_true_iff]
  constructor
  · exact fun h => ⟨_, encode_rdbuf_fields h⟩
  · rintro ⟨slot, rfl⟩
    exact (and_F8FF_eq_iff _).mpr (by simp [encode_rdbuf])

theorem rowOf_mem : ∀ i : Instr, rowOf i ∈ opcodeTable
  | .nop => Laws.OpcodeOfRow.nop.1
  | .init => Laws.OpcodeOfRow.init.1
  | .wrbuf slot mask => (Laws.OpcodeOfRow.wrbuf slot mask).1
  | .rdbuf slot => (Laws.OpcodeOfRow.rdbuf slot).1
  | .scan => Laws.OpcodeOfRow.scan.1
  | .toneStart => Laws.OpcodeOfRow.toneStart.1

/-- A command's word selects the command's row. -/
theorem selectsRow_encode (i : Instr) : selectsRow (encode i) (rowOf i) = true := by
  cases i with
  | nop | init | scan | toneStart => rfl
  | wrbuf slot mask => exact (selectsRow_wrbuf _).mpr ⟨slot, mask, rfl⟩
  | rdbuf slot => exact (selectsRow_rdbuf _).mpr ⟨slot, rfl⟩

/-- A word that selects a row of the table is the word of a command of that row. -/
theorem exists_encode_of_selectsRow {w : Word} {r : TableRow} (hr : r ∈ opcodeTable) (h : selectsRow w r = true) :
    ∃ i, rowOf i = r ∧ encode i = w := by
  simp only [opcodeTable, List.mem_cons, List.not_mem_nil, or_false] at hr
  obtain rfl | rfl | rfl | rfl | rfl | rfl := hr
  · exact ⟨.nop, rfl, ((selectsRow_fixed ..).mp h).symm⟩
  · exact ⟨.init, rfl, ((selectsRow_fixed ..).mp h).symm⟩
  · obtain ⟨slot, mask, hw⟩ := (selectsRow_wrbuf w).mp h
    exact ⟨.wrbuf slot mask, rfl, hw⟩
  · obtain ⟨slot, hw⟩ := (selectsRow_rdbuf w).mp h
    exact ⟨.rdbuf slot, rfl, hw⟩
  · exact ⟨.scan, rfl, ((selectsRow_fixed ..).mp h).symm⟩
  · exact ⟨.toneStart, rfl, ((selectsRow_fixed ..).mp h).symm⟩

/-- A word is legal exactly if it selects a row of the table. -/
theorem isLegal_iff_selectsRow (w : Word) : isLegal w = true ↔ ∃ r ∈ opcodeTable, selectsRow w r = true := by
  rw [isLegal_iff]
  constructor
  · rintro ⟨i, rfl⟩
    exact ⟨rowOf i, rowOf_mem i, selectsRow_encode i⟩
  · rintro ⟨r, hr, h⟩
    obtain ⟨i, -, hw⟩ := exists_encode_of_selectsRow hr h
    exact ⟨i, hw⟩

/-- No word selects two rows of the table: it would be the word of a command of each, and those are one command. -/
theorem selectsRow_unique {w : Word} {r r' : TableRow} (hr : r ∈ opcodeTable) (hr' : r' ∈ opcodeTable)
    (h : selectsRow w r = true) (h' : selectsRow w r' = true) : r = r' := by
  obtain ⟨i, rfl, rfl⟩ := exists_encode_of_selectsRow hr h
  obtain ⟨j, rfl, hj⟩ := exists_encode_of_selectsRow hr' h'
  rw [encode_injective hj]

/-- Settles O2: a row's words are its commands' words, and a command has one word (`encode_injective`). -/
theorem legalWordsSelectExactlyOneRow : Obligations.LegalWordsSelectExactlyOneRow := by
  refine ⟨isLegal_iff_selectsRow, fun w i h => ⟨rowOf_mem i, ?_⟩, fun w r r' => selectsRow_unique⟩
  obtain rfl := encode_of_decode h
  exact selectsRow_encode i

/-! ## The number of words in each class (R106) -/

/-- The words that select a row. -/
def selectedWords (r : TableRow) : Finset Word := Finset.univ.filter fun w => selectsRow w r = true

@[simp] theorem mem_selectedWords {r : TableRow} {w : Word} : w ∈ selectedWords r ↔ selectsRow w r = true := by
  simp [selectedWords]

/-- A row that fixes all sixteen bits has its match word only. -/
theorem card_selectedWords_fixed (mnemonic : String) (v : Word) : (selectedWords ⟨mnemonic, v, 0xFFFF⟩).card = 1 :=
  Finset.card_eq_one.mpr ⟨v, by ext w; simp only [mem_selectedWords, selectsRow_fixed, Finset.mem_singleton]⟩

theorem fintypeCard_bitVec (n : Nat) : Fintype.card (BitVec n) = 2 ^ n := FinEnum.card_eq_fintypeCard.symm

/-- WRBUF has a word for each slot and mask. -/
theorem card_selectedWords_wrbuf : (selectedWords ⟨"WRBUF", 0x2000, 0xF800⟩).card = 2048 := by
  have himage : selectedWords ⟨"WRBUF", 0x2000, 0xF800⟩ =
      Finset.univ.image fun p : Slot × Byte => encode (.wrbuf p.1 p.2) := by
    ext w
    rw [mem_selectedWords, selectsRow_wrbuf]
    simp
  have hinj : Function.Injective fun p : Slot × Byte => encode (.wrbuf p.1 p.2) := fun p q h => by
    obtain ⟨hslot, hmask⟩ := Instr.wrbuf.inj (encode_injective h)
    exact Prod.ext hslot hmask
  rw [himage, Finset.card_image_of_injective _ hinj, Finset.card_univ, Fintype.card_prod, fintypeCard_bitVec,
    fintypeCard_bitVec]
  rfl

/-- RDBUF has a word for each slot. -/
theorem card_selectedWords_rdbuf : (selectedWords ⟨"RDBUF", 0x3000, 0xF8FF⟩).card = 8 := by
  have himage : selectedWords ⟨"RDBUF", 0x3000, 0xF8FF⟩ = Finset.univ.image fun slot => encode (.rdbuf slot) := by
    ext w
    rw [mem_selectedWords, selectsRow_rdbuf]
    simp
  have hinj : Function.Injective fun slot => encode (.rdbuf slot) := fun p q h =>
    Instr.rdbuf.inj (encode_injective h)
  rw [himage, Finset.card_image_of_injective _ hinj, Finset.card_univ, fintypeCard_bitVec]
  rfl

/-- R106, class by class. -/
theorem card_selectedWords_table : opcodeTable.map (fun r => (selectedWords r).card) = [1, 1, 2048, 8, 1, 1] := by
  simp only [opcodeTable, List.map_cons, List.map_nil, card_selectedWords_fixed, card_selectedWords_wrbuf,
    card_selectedWords_rdbuf]

/-- The legal words are counted row by row, no word being in two rows (`selectsRow_unique`). -/
theorem card_legal : (Finset.univ.filter fun w : Word => isLegal w = true).card = 2060 := by
  have hunion : (Finset.univ.filter fun w : Word => isLegal w = true) = opcodeTable.toFinset.biUnion selectedWords := by
    ext w
    simp [isLegal_iff_selectsRow]
  have hdisjoint : (opcodeTable.toFinset : Set TableRow).PairwiseDisjoint selectedWords := by
    intro r hr r' hr' hne
    refine Finset.disjoint_left.mpr fun w h h' => hne ?_
    exact selectsRow_unique (List.mem_toFinset.mp hr) (List.mem_toFinset.mp hr') (mem_selectedWords.mp h)
      (mem_selectedWords.mp h')
  rw [hunion, Finset.card_biUnion hdisjoint, List.sum_toFinset _ (by decide), card_selectedWords_table]
  rfl

/-- The illegal words are the rest of the 65536. -/
theorem card_illegal : (Finset.univ.filter fun w : Word => isLegal w = false).card = 63476 := by
  have hcompl : (Finset.univ.filter fun w : Word => isLegal w = false) =
      (Finset.univ.filter fun w : Word => isLegal w = true)ᶜ := by
    ext w
    simp
  rw [hcompl, Finset.card_compl, card_legal, fintypeCard_bitVec]
  rfl

/-- Settles O4: the rows are counted by their operands, the legal words row by row, and the illegal ones are the rest. -/
theorem legalWordCount : Obligations.LegalWordCount := ⟨card_legal, card_illegal, card_selectedWords_table⟩

/-! ## The reserved encodings (R105) -/

/-- The legal words by opcode: those of the opcode's own row, its reserved bits being 0. -/
theorem isLegal_iff_fields (w : Word) :
    isLegal w = true ↔
      (opField w = 0 ∨ opField w = 1 ∨ opField w = 4 ∨ opField w = 5) ∧ w.extractLsb' 0 12 = 0 ∨
      opField w = 2 ∧ w.getLsbD 11 = false ∨
      opField w = 3 ∧ w.getLsbD 11 = false ∧ maskField w = 0 := by
  rw [isLegal_iff]
  constructor
  · rintro ⟨i, rfl⟩
    cases i with
    | nop => exact .inl ⟨.inl rfl, rfl⟩
    | init => exact .inl ⟨.inr (.inl rfl), rfl⟩
    | scan => exact .inl ⟨.inr (.inr (.inl rfl)), rfl⟩
    | toneStart => exact .inl ⟨.inr (.inr (.inr rfl)), rfl⟩
    | wrbuf slot mask => exact .inr (.inl (by simp [encode_wrbuf]))
    | rdbuf slot => exact .inr (.inr (by simp [encode_rdbuf]))
  · rintro (⟨hop | hop | hop | hop, hlow⟩ | h | h)
    · exact ⟨.nop, ((eq_wordOf_op_iff w 0).mpr ⟨hop, hlow⟩).symm⟩
    · exact ⟨.init, ((eq_wordOf_op_iff w 1).mpr ⟨hop, hlow⟩).symm⟩
    · exact ⟨.scan, ((eq_wordOf_op_iff w 4).mpr ⟨hop, hlow⟩).symm⟩
    · exact ⟨.toneStart, ((eq_wordOf_op_iff w 5).mpr ⟨hop, hlow⟩).symm⟩
    · exact ⟨_, encode_wrbuf_fields ((and_F800_eq_iff w).mpr h)⟩
    · exact ⟨_, encode_rdbuf_fields ((and_F8FF_eq_iff w).mpr h)⟩

/-- An opcode is one of the six with a row, or reserved (R105). -/
theorem op_cases (op : BitVec 4) :
    op = 0 ∨ op = 1 ∨ op = 2 ∨ op = 3 ∨ op = 4 ∨ op = 5 ∨
      6 ≤ op.toNat ∧ op ≠ 0#4 ∧ op ≠ 1#4 ∧ op ≠ 2#4 ∧ op ≠ 3#4 ∧ op ≠ 4#4 ∧ op ≠ 5#4 := by
  revert op
  decide

/-- Issuing an illegal word takes the fault ILLEGAL_COMMAND (R281). -/
theorem hostStep_illegal {w : Word} (h : isLegal w = false) (s : State) :
    hostStep w s = .next (raiseFault .illegalCommand w s) := by
  obtain ⟨-, hs⟩ | ⟨i, hi, -⟩ := hostStep_cases w s
  · exact hs
  · have hlegal : isLegal w = true := (isLegal_iff w).mpr ⟨i, encode_of_decode hi⟩
    exact absurd (h.symm.trans hlegal) (by decide)

/-- Settles O3: opcode by opcode, a word is illegal where `isLegal_iff_fields` fails, and `hostStep_illegal`. -/
theorem reservedEncodingsRaiseIllegalCommand : Obligations.ReservedEncodingsRaiseIllegalCommand := by
  refine fun w => ⟨?_, hostStep_illegal⟩
  rw [← Bool.not_eq_true, isLegal_iff_fields]
  obtain hop | hop | hop | hop | hop | hop | ⟨hop, h0, h1, h2, h3, h4, h5⟩ := op_cases (opField w)
  · simp [hop]
  · simp [hop]
  · simp [hop]
  · simp [hop, maskField, imp_iff_not_or]
  · simp [hop]
  · simp [hop]
  · exact iff_of_true (by simp [h0, h1, h2, h3, h4, h5]) (.inl hop)

/-! ## The assembler (R108) and CLEAR (R109) -/

/-- The fields as digits of the word's number. -/
theorem wordOf_toNat (op : BitVec 4) (b : Bool) (slot : Slot) (mask : Byte) :
    (wordOf op b slot mask).toNat = op.toNat * 0x1000 + b.toNat * 0x800 + slot.toNat * 0x100 + mask.toNat := by
  have h := BitVec.toNat_append op (BitVec.ofBool b ++ (slot ++ mask))
  rw [BitVec.toNat_append (.ofBool b), BitVec.toNat_append slot, BitVec.toNat_ofBool,
    ← Nat.shiftLeft_add_eq_or_of_lt mask.isLt, ← Nat.shiftLeft_add_eq_or_of_lt (b := _ + mask.toNat) (by omega),
    ← Nat.shiftLeft_add_eq_or_of_lt (by have := b.toNat_lt; omega)] at h
  refine h.trans ?_
  omega

/-- Operands in range are the fields of the word they make (R108). -/
theorem wordOf_ofNat (op : BitVec 4) {slot mask : Nat} (hs : slot < 8) (hm : mask < 256) :
    wordOf op false (BitVec.ofNat 3 slot) (BitVec.ofNat 8 mask) =
      BitVec.ofNat 16 (op.toNat * 0x1000 + slot * 0x100 + mask) := by
  refine BitVec.eq_of_toNat_eq ?_
  have hword : op.toNat * 0x1000 + slot * 0x100 + mask < 2 ^ 16 := by omega
  rw [wordOf_toNat, BitVec.toNat_ofNat, BitVec.toNat_ofNat, BitVec.toNat_ofNat, Nat.mod_eq_of_lt hs,
    Nat.mod_eq_of_lt hm, Nat.mod_eq_of_lt hword,
    Bool.toNat_false, Nat.zero_mul, Nat.add_zero]

theorem slotInRange_iff (slot : Nat) : slotInRange slot = true ↔ slot < 8 := decide_eq_true_iff

theorem maskInRange_iff (mask : Nat) : maskInRange mask = true ↔ mask < 256 := decide_eq_true_iff

/-- A WRBUF line is in range where both operands are. -/
theorem wf_wrbuf_iff (slot mask : Nat) : (Asm.wrbuf slot mask).wf = true ↔ slot < 8 ∧ mask < 256 := by
  rw [← slotInRange_iff, ← maskInRange_iff, ← Bool.and_eq_true]
  rfl

/-- An RDBUF line is in range where its slot is. -/
theorem wf_rdbuf_iff (slot : Nat) : (Asm.rdbuf slot).wf = true ↔ slot < 8 := slotInRange_iff slot

/-- Settles O50: in range the operands are the word's fields (`wordOf_ofNat`), and out of range the line is ill-formed. -/
theorem assemblerEncodesInRangeOperands : Obligations.AssemblerEncodesInRangeOperands := by
  intro cfg slot mask
  refine ⟨fun hs hm => ?_, fun hs => ?_, fun hs => ⟨if_neg ?_, if_neg ?_⟩, fun hm => if_neg ?_⟩
  · rw [assemble, if_pos ((wf_wrbuf_iff slot mask).mpr ⟨hs, hm⟩), Option.map_some, List.map_singleton, encode_wrbuf,
      wordOf_ofNat 2 hs hm]
    rfl
  · rw [assemble, if_pos ((wf_rdbuf_iff slot).mpr hs), Option.map_some, List.map_singleton, encode_rdbuf]
    exact congrArg (fun w => some [w]) (wordOf_ofNat 3 hs (show 0 < 256 by decide))
  · exact fun h => hs.not_gt ((wf_wrbuf_iff slot mask).mp h).1
  · exact fun h => hs.not_gt ((wf_rdbuf_iff slot).mp h)
  · exact fun h => hm.not_gt ((wf_wrbuf_iff slot mask).mp h).2

/-- After INIT the eight writes of CLEAR are INIT's clearing of the buffer (R109, R142). -/
theorem execAll_clearCommands {s : State} (h : s.initDone = true) : execAll clearCommands s = .next (clearBuf s) :=
  execAll_wrbufs (slots.map fun d => (d, 0x00)) h

/-- Settles O49: CLEAR's run ends in the buffer that INIT's clearing leaves, all of whose entries read 0x00. -/
theorem clearBlanksOnlyTheBuffer : Obligations.ClearBlanksOnlyTheBuffer := fun s h =>
  ⟨(clearBuf s).buf, execAll_clearCommands h, memRead_clearBuf s⟩

end Sys2Proof
end

section
/-! SUPPORT and the settled statements of 40_display.md: each display command under its word, HOST's step and its hold in a
frame, the SCAN agent and its frame, and the levels of the display lines. -/

namespace Sys2Proof.Machine

/-! ## A command under its word (R103, R140, R151) -/

/-- HOST's step with a command's word is that command (R140). -/
theorem hostStep_of_decode {w : Word} {i : Instr} (h : decode w = .ok i) (s : State) : hostStep w s = exec i s := by
  rw [hostStep, h]

/-- Where HOST moves with a word from outside that decodes to i, the block's step is i. -/
theorem agentStep_exec {cfg : WfConfig} {s : State} {w : Word} {rest : List Word} {i : Instr} (hf : s.fault = .noFault)
    (ha : s.scanActive = false) (ht : s.turn = .hostOrScan ∨ s.toneEn = false) (hp : s.pending = w :: rest)
    (hw : decode w = .ok i) : agentStep cfg s = exec i { s with pending := rest } :=
  (agentStep_host hf ha ht hp).trans (hostStep_of_decode hw _)

/-- Every command is issued as its own word: SCAN moves in its place in a frame, and it runs outside one. -/
theorem issuedAs_encode (i : Instr) : IssuedAs (encode i) i := by
  refine ⟨fun v => decode_eq_ok_iff.trans eq_comm, fun cfg s rest hf ht hp => ?_⟩
  by_cases ha : s.scanActive = true
  · rw [if_pos ha, agentStep_scan hf ha ht]
  · rw [if_neg ha, agentStep_exec hf (Bool.eq_false_iff.mpr ha) ht hp (decode_encode i)]

/-! ## NOP (R147) -/

/-- Opcode 0 has one legal word. -/
theorem isLegal_op_zero {w : Word} (hop : opField w = 0) (hw : w ≠ 0x0000) : isLegal w = false :=
  (reservedEncodingsRaiseIllegalCommand w).1.mpr
    (.inr (.inl ⟨.inl hop, fun hlow => hw ((eq_wordOf_op_iff w 0).mpr ⟨hop, hlow⟩)⟩))

/-- Settles O6: NOP's word is the one word of its opcode, and its effect is none. -/
theorem nopChangesNothing : Obligations.NopChangesNothing :=
  ⟨issuedAs_encode .nop, fun _ => isLegal_op_zero, fun _ => exec_ready (.inl rfl)⟩

/-! ## INIT (R142) -/

/-- INIT's clearing reaches no address past the eight entries. -/
theorem read_clearBuf_of_ge (s : State) {a : Nat} (ha : 8 ≤ a) :
    Memory.read (clearBuf s).buf a = Memory.read s.buf a := by
  have hne (p : Slot) : a ≠ p.toNat := by omega
  simp only [clearBuf, slots, List.foldl_cons, List.foldl_nil, memWrite, read_write, if_neg (hne _)]

/-- INIT's clearing of a canonical buffer leaves it empty, the canonical form being unique (`ext_of_wf`). -/
theorem clearBuf_eq_nil {s : State} (h : Memory.wf s.buf = true) : (clearBuf s).buf = [] := by
  refine ext_of_wf (clearBuf_wf h) rfl fun a => ?_
  obtain ha | ha := Nat.lt_or_ge a 8
  · have hread := memRead_clearBuf s (BitVec.ofNat 3 a)
    rwa [memRead, BitVec.toNat_ofNat, Nat.mod_eq_of_lt ha] at hread
  · exact read_of_ge (clearBuf_wf h) ha

/-- Settles O7: INIT's effect, with the buffer that its clearing leaves. -/
theorem initBlanksAndEnables : Obligations.InitBlanksAndEnables :=
  ⟨issuedAs_encode .init, fun s => ⟨(clearBuf s).buf, exec_ready (.inl rfl), memRead_clearBuf s,
    fun _ => read_clearBuf_of_ge s, clearBuf_eq_nil⟩⟩

/-! ## WRBUF (R144) -/

/-- Writing the byte that an address holds already leaves a canonical buffer as it is. -/
theorem write_read_self {m : Memory} {a : Nat} (h : Memory.wf m = true) (ha : a < nDigits) :
    Memory.write m a (Memory.read m a) = m := by
  refine ext_of_wf (wf_write _ h ha) h fun c => ?_
  rw [read_write]
  split
  · rename_i hc
    rw [hc]
  · rfl

/-- Settles O9: WRBUF's word, its reserved bit, the gate shut, and with the gate open the write, by what a read finds after
it (`read_write`). -/
theorem wrbufWritesOneEntry : Obligations.WrbufWritesOneEntry := by
  refine ⟨fun slot mask => issuedAs_encode (.wrbuf slot mask), ?reserved, fun s slot mask hd => exec_shut rfl hd,
    fun s slot mask hd => ⟨Memory.write s.buf slot.toNat mask, exec_ready (.inr hd), ?own, ?others,
      memWrite_wf slot mask, ?held⟩⟩
  case reserved =>
    exact fun w hop hbit => (reservedEncodingsRaiseIllegalCommand w).1.mpr (.inr (.inr (.inl ⟨hop, hbit⟩)))
  case own => rw [read_write, if_pos rfl]
  case others =>
    intro a ha
    rw [read_write, if_neg ha]
  case held =>
    rintro hwf rfl
    exact write_read_self hwf slot.isLt

/-! ## RDBUF (R146) -/

/-- After INIT, RDBUF responds with its entry. -/
theorem exec_rdbuf_ready {s : State} (slot : Slot) (hd : s.initDone = true) :
    exec (.rdbuf slot) s = .next { s with responses := s.responses ++ [memRead s slot] } :=
  exec_ready (.inr hd)

/-- Right after INIT every entry reads 0x00, so that is what RDBUF responds. -/
theorem exec_rdbuf_after_init {s t : State} (slot : Slot) (h : exec .init s = .next t) :
    exec (.rdbuf slot) t = .next { t with responses := t.responses ++ [0x00] } := by
  obtain rfl := eq_effectOf_of_exec (.inl rfl) h
  have hblank : memRead (effectOf .init s) slot = 0x00 := memRead_clearBuf s slot
  rw [exec_rdbuf_ready slot rfl, hblank]

/-- Settles O10: RDBUF's word, its reserved bits, the response with the gate open, and the gate shut. -/
theorem rdbufRespondsWithTheEntry : Obligations.RdbufRespondsWithTheEntry :=
  ⟨fun slot => issuedAs_encode (.rdbuf slot),
    fun w hop hbits => (reservedEncodingsRaiseIllegalCommand w).1.mpr (.inr (.inr (.inr ⟨hop, hbits⟩))),
    fun _ slot hd => exec_rdbuf_ready slot hd,
    fun _ _ slot h => exec_rdbuf_after_init slot h,
    fun _ _ hd => exec_shut rfl hd⟩

/-! ## SCAN (R150) and the gate (R141, R282) -/

/-- Settles O11: SCAN's word, its effect with the gate open, and the gate shut. -/
theorem scanStartsAFrame : Obligations.ScanStartsAFrame :=
  ⟨issuedAs_encode .scan, fun _ hd => exec_ready (.inr hd), fun _ hd => exec_shut rfl hd⟩

/-- A command outside the gate raises nothing (R141). -/
theorem exec_ungated {i : Instr} (hg : isGated i = false) (s : State) :
    ∃ t, exec i s = .next t ∧ t.fault = s.fault ∧ t.faultCmd = s.faultCmd :=
  ⟨effectOf i s, exec_ready (.inl hg), effectOf_faultSame i s⟩

/-- Settles O13: the shut gate stops the three gated commands (`exec_shut`), and the other three are outside it. -/
theorem uninitialisedDisplayCommandsFault : Obligations.UninitialisedDisplayCommandsFault := by
  refine fun s hd => ⟨fun _ _ => exec_shut rfl hd, fun _ => exec_shut rfl hd, exec_shut rfl hd, fun i hi => ?_⟩
  have hungated : ∀ j ∈ [Instr.nop, .init, .toneStart], isGated j = false := by simp [isGated]
  exact exec_ungated (hungated i hi) s

/-! ## The machine's step with a word (logs 2 and 3) -/

/-- A step is an agent's step and then the draw of the next turn, whatever the agent answers. -/
theorem stepWith_eq_onNext (cfg : WfConfig) (sched : Nat → Turn) (s : State) :
    stepWith cfg sched s = onNext (reschedule sched) (agentStep cfg s) := by
  rw [stepWith]
  cases agentStep cfg s <;> rfl

/-- Where HOST moves with a word from outside that decodes to i, the machine's step is i and then the draw. -/
theorem step_exec {s : State} {w : Word} {rest : List Word} {i : Instr} (hf : s.fault = .noFault)
    (ha : s.scanActive = false) (ht : s.turn = .hostOrScan ∨ s.toneEn = false) (hp : s.pending = w :: rest)
    (hw : decode w = .ok i) :
    step s = onNext (reschedule Config.freeTurn) (exec i { s with pending := rest }) := by
  rw [step, stepWith_eq_onNext, agentStep_exec hf ha ht hp hw]

/-- Settles O16: `step_exec`, with the draw written out. -/
theorem stepRunsTheDecodedWord : Obligations.StepRunsTheDecodedWord :=
  fun _ _ _ _ hf ha ht hp hw => step_exec hf ha ht hp hw

theorem decode_of_decodeTableWord {nbits w : Nat} {i : Instr} (h : decodeTableWord nbits w = some i) :
    decode (tableWord nbits w) = .ok i := by
  unfold decodeTableWord at h
  split at h
  · rename_i j hj
    rw [hj, Option.some.inj h]
  · cases h

/-- Settles O17: the placed word is at the head of the pending ones and TONE has no turn, so `step_exec` applies. -/
theorem placedWordRunsNext : Obligations.PlacedWordRunsNext :=
  fun s nbits w _ hf ha hw =>
    step_exec (s := s.withFetchWord nbits w) hf ha (.inl rfl) rfl (decode_of_decodeTableWord hw)

/-! ## The SCAN agent (R152, R155, R157) -/

/-- The slot step for SCAN_POS = p, as its three writes. -/
theorem scanStep_of_pos {s : State} {p : Slot} (h : s.scanPos.toNat = p.toNat) :
    scanStep s = .next { s with digSel := some p, segOut := memRead s p, scanPos := BitVec.ofNat 4 (p.toNat + 1) } := by
  have hp : s.scanPos.setWidth 3 = p := by bv_omega
  have hnext : p.setWidth 4 + 1 = BitVec.ofNat 4 (p.toNat + 1) := by bv_omega
  rw [scanStep_slot (h.trans_lt p.isLt), hp, slotStep, hnext]
  rfl

/-- Settles O21: position p is below 8, so the step is the slot step, written out in `scanStep_of_pos`. -/
theorem slotStepShowsOneDigit : Obligations.SlotStepShowsOneDigit := fun _ _ h => scanStep_of_pos h

/-- Settles O22: position 8 is the end of the frame (`scanStep_end`). -/
theorem endOfFrameDarkensAndReleases : Obligations.EndOfFrameDarkensAndReleases :=
  fun _ h => scanStep_end (congrArg BitVec.toNat h)

/-- Settles O23: SCAN moves (`agentStep_scan`), and above position 8 its step is the named stop. -/
theorem scanAgentStepsInAFrame : Obligations.ScanAgentStepsInAFrame := fun cfg s ha hf ht =>
  have hscan : agentStep cfg s = scanStep s := agentStep_scan hf ha ht
  ⟨hscan, fun hpos => hscan.trans (scanStep_outOfRange hpos)⟩

/-- In R38's range the SCAN agent has a step. -/
theorem scanStep_isNext {s : State} (h : s.scanPos.toNat ≤ 8) : ∃ t, scanStep s = .next t := by
  obtain hlt | heq := Nat.lt_or_eq_of_le h
  · exact ⟨_, scanStep_slot hlt⟩
  · exact ⟨_, scanStep_end heq⟩

/-! ## The hold (R151) -/

/-- In a frame of R38's range, unfaulted, the block has a step: TONE's or SCAN's. -/
theorem agentStep_isNext_in_frame (cfg : WfConfig) {s : State} (ha : s.scanActive = true) (hf : s.fault = .noFault)
    (hpos : s.scanPos.toNat ≤ 8) : ∃ t, agentStep cfg s = .next t := by
  obtain ⟨htone, he⟩ | ht := turn_cases s
  · exact ⟨_, agentStep_tone hf htone he⟩
  · rw [agentStep_scan hf ha ht]
    exact scanStep_isNext hpos

/-- What a step in a frame leaves alone: all that only HOST writes, and SCAN_ACTIVE short of position 8. -/
def HeldBy (s t : State) : Prop :=
  HostSame s t ∧ t.buf = s.buf ∧ t.initDone = s.initDone ∧ t.outEn = s.outEn ∧ t.toneEn = s.toneEn ∧
    FaultSame s t ∧ (t.scanActive = false → s.scanPos = 8)

/-- In a frame only TONE and SCAN move, and neither writes what only HOST writes; SCAN ends the frame at position 8. -/
theorem heldBy_agentStep {cfg : WfConfig} {s t : State} (ha : s.scanActive = true) (h : agentStep cfg s = .next t) :
    HeldBy s t := by
  have hactive : s.scanActive ≠ false := by simp [ha]
  obtain ⟨-, ⟨-, rfl⟩ | ⟨-, hst⟩ | ⟨hidle, -⟩ | ⟨hidle, -⟩ | ⟨hidle, -⟩⟩ := agentStep_cases h
  · exact ⟨⟨rfl, rfl, rfl, rfl, rfl⟩, rfl, rfl, rfl, rfl, ⟨rfl, rfl⟩, fun hidle => absurd hidle hactive⟩
  · obtain ⟨-, rfl⟩ | ⟨hpos, rfl⟩ := scanStep_cases hst
    · exact ⟨⟨rfl, rfl, rfl, rfl, rfl⟩, rfl, rfl, rfl, rfl, ⟨rfl, rfl⟩, fun hidle => absurd hidle hactive⟩
    · exact ⟨⟨rfl, rfl, rfl, rfl, rfl⟩, rfl, rfl, rfl, rfl, ⟨rfl, rfl⟩, fun _ => BitVec.eq_of_toNat_eq hpos⟩
  all_goals exact absurd hidle hactive

/-- Settles O18: the draw of the next turn writes nothing of these, so a step holds what its agent's step holds. -/
theorem hostIsHeldDuringAFrame : Obligations.HostIsHeldDuringAFrame := by
  refine fun cfg sched s ha => ⟨fun t h => ?_, fun hf hpos => ?_⟩
  · obtain ⟨u, hu, rfl⟩ := stepWith_cases h
    have hheld : HeldBy s u := heldBy_agentStep ha hu
    exact hheld
  · obtain ⟨u, hu⟩ := agentStep_isNext_in_frame cfg ha hf hpos
    exact ⟨_, stepWith_of_agentStep hu⟩

/-! ## A frame (R158) -/

/-- From SCAN_POS = 0, k + 1 SCAN steps have brought the frame to digit k, which is lit with its own entry. -/
theorem scanSteps_to_digit {s : State} (h : s.scanPos = 0) (k : Nat) (hk : k < 8) :
    scanSteps (k + 1) s = .next { s with
      digSel := some (BitVec.ofNat 3 k), segOut := memRead s (BitVec.ofNat 3 k), scanPos := BitVec.ofNat 4 (k + 1) } := by
  induction k with
  | zero =>
    rw [scanSteps_one]
    exact scanStep_of_pos (p := 0) (by rw [h]; rfl)
  | succ k ih =>
    have hpos : (BitVec.ofNat 4 (k + 1)).toNat = (BitVec.ofNat 3 (k + 1)).toNat := by
      rw [BitVec.toNat_ofNat, BitVec.toNat_ofNat]
      omega
    rw [scanSteps_succ (ih (by omega)), scanStep_of_pos (p := BitVec.ofNat 3 (k + 1)) hpos, BitVec.toNat_ofNat,
      Nat.mod_eq_of_lt hk]
    rfl

/-- From SCAN_POS = 0, nine SCAN steps end the frame with the buffer as it was. -/
theorem scanSteps_frame {s : State} (h : s.scanPos = 0) : scanSteps 9 s = .next (endOfFrame s) :=
  (scanSteps_succ (scanSteps_to_digit h 7 (by decide))).trans (scanStep_end rfl)

/-- Settles O24: SCAN starts at position 0, digit p is lit after p + 1 steps (`scanSteps_to_digit`), and the ninth step is
the end. -/
theorem frameTraceShowsEveryDigitOnce : Obligations.FrameTraceShowsEveryDigitOnce := by
  refine fun s hd => ⟨effectOf .scan s, exec_ready (.inr hd), fun p => ?_, scanSteps_frame rfl⟩
  have hdigit := scanSteps_to_digit (s := effectOf .scan s) rfl p.toNat p.isLt
  rw [BitVec.ofNat_toNat, BitVec.setWidth_eq] at hdigit
  exact ⟨_, hdigit, rfl, rfl⟩

/-! ## The lines (R153, R154, R160) -/

/-- Shifting a 1 into place i sets bit i alone. -/
theorem getLsbD_one_shiftLeft {n i j : Nat} (hi : i < n) : (1#n <<< i).getLsbD j = decide (i = j) := by
  rw [← BitVec.twoPow_eq, BitVec.getLsbD_twoPow]
  simp [hi]

/-- GA shows the selected digit of 0..5 (R153). -/
theorem groupA_getLsbD (s : State) {p : Slot} (hp : p.toNat ≤ 5) :
    (groupA s).getLsbD p.toNat = decide (s.digSel = some p) := by
  unfold groupA
  split
  · rename_i q hq
    rw [hq]
    split
    · rw [getLsbD_one_shiftLeft (by omega)]
      simp [BitVec.toNat_inj]
    · have hne : q ≠ p := by bv_omega
      simp [hne]
  · rename_i hnone
    simp [hnone]

/-- GB shows the selected digit of 6..7 (R153). -/
theorem groupB_getLsbD (s : State) {p : Slot} (hp : 6 ≤ p.toNat) :
    (groupB s).getLsbD (p.toNat - 6) = decide (s.digSel = some p) := by
  unfold groupB
  split
  · rename_i q hq
    rw [hq]
    split
    · rw [getLsbD_one_shiftLeft (by omega)]
      have heq : q.toNat - 6 = p.toNat - 6 ↔ q = p := by bv_omega
      simp [heq]
    · have hne : q ≠ p := by bv_omega
      simp [hne]
  · rename_i hnone
    simp [hnone]

/-- Settles O38: each bit of a group decides whether its digit is the selected one. -/
theorem digitSelectIsOneHot : Obligations.DigitSelectIsOneHot := by
  refine fun s => ⟨fun p hp => ?_, fun p hp => ?_, fun hnone => ?_⟩
  · rw [groupA_getLsbD s hp, decide_eq_true_iff]
  · rw [groupB_getLsbD s hp, decide_eq_true_iff]
  · rw [groupA, groupB, hnone]
    exact ⟨rfl, rfl⟩

section
variable (cfg : WfConfig) (draw : Nat → Nat → Bool) (s : State) (k : Nat)

/-- The line of digit p, on whichever group it stands (R77, R160). -/
theorem level_digitLine (p : Slot) :
    level cfg draw s k (digitLine p) =
      if s.outEn then digitLevel cfg (decide (s.digSel = some p)) else .undriven := by
  unfold digitLine
  split
  · rw [level, groupA_getLsbD s (by omega)]
  · rw [level, groupB_getLsbD s (by omega)]

/-- The line of mask bit i, on whichever group it stands (R78, R154, R160). -/
theorem level_segmentLine (i : Fin 8) :
    level cfg draw s k (segmentLine i) = if s.outEn then segmentLevel (s.segOut.getLsbD i.val) else .undriven := by
  unfold segmentLine
  split
  · rename_i hi
    simp [level, groupX, hi]
  · rename_i hi
    have hlt : i.val - 2 < 6 := by omega
    have hadd : 2 + (i.val - 2) = i.val := by omega
    simp [level, groupY, hlt, hadd]

end

/-- Digit-select lines are active at the level DIG_ACTIVE_HIGH gives (R160). -/
theorem digitLevel_eq (cfg : WfConfig) (active : Bool) :
    digitLevel cfg active =
      if active = true then (if cfg.config.digActiveHigh = true then Level.high else Level.low)
      else (if cfg.config.digActiveHigh = true then Level.low else Level.high) := by
  unfold digitLevel
  cases active <;> cases cfg.config.digActiveHigh <;> rfl

/-- Segment lines are active-low (R160). -/
theorem segmentLevel_eq (lit : Bool) : segmentLevel lit = if lit = true then Level.low else Level.high := by
  cases lit <;> rfl

theorem segmentLevel_eq_high (lit : Bool) : segmentLevel lit = .high ↔ lit = false := by
  cases lit <;> simp [segmentLevel_eq]

/-- A bit of the driven segment value is set exactly if the segment is dark (R160). -/
theorem segDriven_getLsbD (s : State) (i : Fin 8) : (segDriven s).getLsbD i.val = !s.segOut.getLsbD i.val := by
  rw [segDriven, BitVec.getLsbD_not]
  simp

/-- Settles O39: the line's level by group (`level_digitLine`, `level_segmentLine`), driven or not. -/
theorem displayLineLevels : Obligations.DisplayLineLevels := by
  intro cfg draw s k p i
  rw [level_digitLine, level_segmentLine]
  refine ⟨fun hout => ?_, fun hout => ?_⟩
  · rw [hout]
    exact ⟨rfl, rfl⟩
  · rw [if_pos hout, if_pos hout]
    refine ⟨?digit, segmentLevel_eq _, ?driven⟩
    case digit => simp only [digitLevel_eq, decide_eq_true_iff]
    case driven => rw [segmentLevel_eq_high, segDriven_getLsbD, Bool.not_eq_true']

end Sys2Proof.Machine
end

section
/-! SUPPORT and the settled statements of 41_tone.md: TONE_START, the tick's arithmetic and its periods, what a tick and a
melody write, who ticks and when, and what the generator and the audio line show. -/

namespace Sys2Proof.Machine

/-! ## TONE_START (R192) -/

/-- Enabling an enabled tick changes nothing. -/
theorem enableTone_of_enabled {s : State} (he : s.toneEn = true) : enableTone s = s := by
  rw [enableTone, ← he]

/-- No command clears TONE_EN, whether the gate lets it through or not. -/
theorem toneEn_of_exec {i : Instr} {s t : State} (h : exec i s = .next t) (he : s.toneEn = true) :
    t.toneEn = true := by
  obtain ⟨-, hx⟩ | ⟨-, -, hx⟩ := exec_cases i s <;> obtain rfl := Host.Outcome.next.inj (h.symm.trans hx)
  · rw [← Bool.not_eq_false] at he ⊢
    exact mt toneEn_of_effectOf he
  · exact he

/-- Settles O12: TONE_START's word, its effect outside the gate, and TONE_EN under every command (`toneEn_of_exec`). -/
theorem toneStartOnlyEnablesTheTick : Obligations.ToneStartOnlyEnablesTheTick := by
  refine ⟨issuedAs_encode .toneStart, fun s => ?_, fun i s t => toneEn_of_exec⟩
  have hexec : exec .toneStart s = .next (enableTone s) := exec_ready (.inl rfl)
  exact ⟨hexec, fun he => hexec.trans (congrArg _ (enableTone_of_enabled he))⟩

/-! ## The tick's arithmetic (R196 to R202) -/

/-- The note of a tick, with R195's own index into NOTE_TABLE (R196, R197). -/
theorem noteFrequency_eq_getD (cfg : Config) (t : Nat) :
    noteFrequency cfg t = cfg.noteTable.toList.getD (t / 3 % 32) 0 := by
  have hlt : t / 3 % 32 < cfg.noteTable.toList.length := by
    rw [Vector.length_toList]
    exact Nat.mod_lt _ (by decide)
  rw [List.getD_eq_getElem _ _ hlt, Vector.getElem_toList]
  rfl

/-- The divisor of every tick's division is at least 1, every note being so (R13, R202). -/
theorem divisor_pos (cfg : WfConfig) (t : Nat) : 0 < noteFrequency cfg.config t * (2 * octaveBit t + 1) :=
  Nat.mul_pos (note_pos cfg (noteFrequency_mem cfg.config t)) (Nat.succ_pos _)

/-- Settles O27: no divisor is 0 (`divisor_pos`), and R13 bounds every compare value (`compareAt_range`). -/
theorem compareValuesFitTheRegister : Obligations.CompareValuesFitTheRegister :=
  fun cfg t => ⟨divisor_pos cfg t, compareAt_range cfg t⟩

/-- The target frequency over one denominator (R199). -/
theorem targetFrequency_eq (f0 k : Nat) : targetFrequency f0 k = (f0 : ℚ) * (2 * k + 1) / 2 := by
  rw [targetFrequency, octaveFactor]
  ring

/-- CLOCK_RATE over the target frequency is the fraction of naturals that R200 divides. -/
theorem clockRate_div_targetFrequency (clockRate f0 k : Nat) :
    (clockRate : ℚ) / targetFrequency f0 k = ((2 * clockRate : Nat) : ℚ) / ((f0 * (2 * k + 1) : Nat) : ℚ) := by
  rw [targetFrequency_eq, div_div_eq_mul_div, mul_comm (clockRate : ℚ)]
  push_cast
  rfl

/-- The division of naturals is the floor of that fraction (R200). -/
theorem compareValue_eq_floor (clockRate f0 k : Nat) :
    (compareValue clockRate f0 k : ℤ) = ⌊(clockRate : ℚ) / targetFrequency f0 k⌋ := by
  rw [clockRate_div_targetFrequency, Rat.floor_natCast_div_natCast]
  rfl

/-- Settles O28: the target frequency as a fraction, and the division as a floor. -/
theorem compareValueIsTheExactFloor : Obligations.CompareValueIsTheExactFloor :=
  fun clockRate f0 k _ => ⟨targetFrequency_eq f0 k, compareValue_eq_floor clockRate f0 k⟩

/-- In the first half of the melody the octave bit is 1 (R198). -/
theorem octaveBit_first_half {t : Nat} (h : t ≤ 383) : octaveBit t = 1 := by
  simp only [octaveBit, octaveDiv]
  omega

/-- In the second half it is 0 (R198). -/
theorem octaveBit_second_half {t : Nat} (h : 384 ≤ t) (h' : t ≤ 767) : octaveBit t = 0 := by
  simp only [octaveBit, octaveDiv]
  omega

theorem octaveFactor_one : octaveFactor 1 = 3 / 2 := by norm_num [octaveFactor]

theorem octaveFactor_zero : octaveFactor 0 = 1 / 2 := by norm_num [octaveFactor]

/-- Settles O29: the factor of the octave bit of each half; the two vectors of R207 are computed. -/
theorem octaveFactorAlternates : Obligations.OctaveFactorAlternates := by
  refine ⟨fun t h => ?first, fun t h h' => ?second, rfl, ?zero, rfl⟩
  case first => rw [octaveBit_first_half h, octaveFactor_one]
  case second => rw [octaveBit_second_half h h', octaveFactor_zero]
  case zero => rw [octaveBit_first_half (Nat.zero_le _), octaveFactor_one]

/-! ## Periods (R206) -/

theorem noteIndex_periodic : Function.Periodic noteIndex 96 := by
  intro t
  simp only [noteIndex, ticksPerNote, noteCount, Fin.mk.injEq]
  omega

/-- A shorter shift moves the note at t = 0, if it reaches a next note there, or else at a note's last tick. -/
theorem noteIndex_shift_ne {d : Nat} (h : 0 < d) (h' : d < 96) : ∃ t, noteIndex (t + d) ≠ noteIndex t := by
  simp only [noteIndex, ticksPerNote, noteCount, ne_eq, Fin.mk.injEq]
  obtain hd | hd := Nat.lt_or_ge d 3
  · exact ⟨2, by omega⟩
  · exact ⟨0, by omega⟩

theorem octaveBit_periodic : Function.Periodic octaveBit 768 := by
  intro t
  simp only [octaveBit, octaveDiv]
  omega

/-- A shorter shift moves the octave bit at t = 0, if it reaches the second half there, or else at the first half's last
tick. -/
theorem octaveBit_shift_ne {d : Nat} (h : 0 < d) (h' : d < 768) : ∃ t, octaveBit (t + d) ≠ octaveBit t := by
  simp only [octaveBit, octaveDiv]
  obtain hd | hd := Nat.lt_or_ge d 384
  · exact ⟨383, by omega⟩
  · exact ⟨0, by omega⟩

/-- A compare value is its note's and its octave bit's, and 768 ticks are eight rounds of the notes. -/
theorem compareAt_periodic (cfg : Config) : Function.Periodic (compareAt cfg) 768 := by
  intro t
  have hnote : noteIndex (t + 768) = noteIndex t := noteIndex_periodic.nat_mul 8 t
  simp only [compareAt, noteFrequency, octaveBit_periodic t, hnote]

/-- T, which counts modulo 768, programs what an unbounded counter would. -/
theorem compareAt_mod (cfg : Config) (t : Nat) : compareAt cfg (t % 768) = compareAt cfg t :=
  (compareAt_periodic cfg).map_mod_nat t

/-- Settles O30: the two periods, a tick that refutes each shorter one, and the compare value's period. -/
theorem tonePeriods : Obligations.TonePeriods :=
  ⟨noteIndex_periodic, fun _ => noteIndex_shift_ne, octaveBit_periodic, fun _ => octaveBit_shift_ne,
    fun cfg => compareAt_mod cfg.config⟩

/-! ## What a tick and a melody write (R195, R201) -/

/-- Settles O26: TONE moves, and CMP holds the tick's compare value untruncated (`compareAt_toNat`). -/
theorem tickProgramsTheCompareValue : Obligations.TickProgramsTheCompareValue := by
  intro cfg s hf he ht
  refine ⟨BitVec.ofNat 32 (compareAt cfg.config s.t.toNat), ?_, agentStep_tone hf ht he⟩
  rw [compareAt_toNat, ← noteFrequency_eq_getD]
  rfl

/-- One tick more, at the end. -/
theorem ticks_succ (cfg : WfConfig) (n : Nat) (s : State) : ticks cfg (n + 1) s = tick cfg (ticks cfg n s) := by
  induction n generalizing s with
  | zero => rfl
  | succ n ih => exact ih (tick cfg s)

/-- The state with the tone counters as tick number n of a melody leaves them, T counting from 0. -/
def afterTick (cfg : WfConfig) (n : Nat) (s : State) : State :=
  { s with
    cmp := some (BitVec.ofNat 32 (compareAt cfg.config n)), cmpValid := true, t := BitVec.ofNat 10 ((n + 1) % 768) }

/-- A tick that reads T = n mod 768 is tick number n of the melody. -/
theorem tick_eq_afterTick (cfg : WfConfig) {s : State} {n : Nat} (h : s.t.toNat = n % 768) :
    tick cfg s = afterTick cfg n s := by
  have hnext : nextTick (n % 768) = (n + 1) % 768 := Nat.mod_add_mod n 768 1
  rw [tick, h, compareAt_mod, hnext]
  rfl

/-- After tick number n, T is n + 1 modulo 768, a number of 10 bits. -/
theorem afterTick_t_toNat (cfg : WfConfig) (n : Nat) (s : State) : (afterTick cfg n s).t.toNat = (n + 1) % 768 := by
  rw [afterTick, BitVec.toNat_ofNat]
  omega

theorem ticks_eq_afterTick (cfg : WfConfig) {s : State} (h : s.t = 0) (n : Nat) :
    ticks cfg (n + 1) s = afterTick cfg n s := by
  induction n with
  | zero => exact tick_eq_afterTick cfg (congrArg BitVec.toNat h)
  | succ n ih =>
    rw [ticks_succ, ih, tick_eq_afterTick cfg (afterTick_t_toNat cfg n s)]
    rfl

/-- Settles O31, by induction on the ticks (`ticks_eq_afterTick`). -/
theorem melodyFollowsAnUnboundedCounter : Obligations.MelodyFollowsAnUnboundedCounter :=
  fun cfg _ n h => ⟨_, compareAt_toNat cfg n, ticks_eq_afterTick cfg h n⟩

/-! ## Who ticks, and when (R190, R191) -/

theorem toneSame_trans {s u t : State} (h : ToneSame s u) (h' : ToneSame u t) : ToneSame s t := by
  obtain ⟨ht, hcmp, hvalid⟩ := h
  obtain ⟨ht', hcmp', hvalid'⟩ := h'
  exact ⟨ht'.trans ht, hcmp'.trans hcmp, hvalid'.trans hvalid⟩

/-- A HOST step never writes the tone counters, whatever its word. -/
theorem toneSame_of_hostStep {w : Word} {s t : State} (h : hostStep w s = .next t) : ToneSame s t := by
  obtain ⟨-, rfl⟩ | ⟨i, -, -, rfl⟩ | ⟨i, -, rfl⟩ := hostStep_next_cases h
  · exact ⟨rfl, rfl, rfl⟩
  · exact ⟨rfl, rfl, rfl⟩
  · exact effectOf_toneSame i s

/-- With the tick disabled only HOST and SCAN move, and neither writes the tone counters. -/
theorem toneSame_of_agentStep {cfg : WfConfig} {s t : State} (he : s.toneEn = false)
    (h : agentStep cfg s = .next t) : ToneSame s t := by
  obtain ⟨-, ⟨he', -⟩ | ⟨-, hst⟩ | ⟨-, w, rest, -, hst⟩ | ⟨-, -, i, u, v, hn, hst, rfl⟩ | ⟨-, -, -, -, rfl⟩⟩ :=
    agentStep_cases h
  · exact absurd (he.symm.trans he') (by decide)
  · exact toneSame_of_scanStep hst
  · exact toneSame_trans (pending_blockSame s rest).tone (toneSame_of_hostStep hst)
  · have hhost : ToneSame s v := toneSame_trans (nextCommand_blockSame hn).tone (toneSame_of_hostStep hst)
    exact toneSame_trans hhost (endCall_blockSame cfg v).tone
  · exact ⟨rfl, rfl, rfl⟩

/-- Settles O32: the agent's step leaves the tone counters alone, and so does the draw of the next turn. -/
theorem noTickBeforeToneStart : Obligations.NoTickBeforeToneStart := by
  intro cfg sched s t he h
  obtain ⟨u, hu, rfl⟩ := stepWith_cases h
  exact toneSame_trans (toneSame_of_agentStep he hu) (reschedule_blockSame sched u).tone

/-- Where neither SCAN nor HOST has anything to do, TONE moves if it is enabled, and otherwise the block waits. -/
theorem agentStep_idle {cfg : WfConfig} {s : State} (hf : s.fault = .noFault) (ha : s.scanActive = false)
    (hp : s.pending = []) (hn : nextCommand cfg s = none) :
    agentStep cfg s = if s.toneEn then .next (tick cfg s) else .next s := by
  obtain ⟨ht, he⟩ | ht := turn_cases s
  · rw [if_pos he, agentStep_tone hf ht he]
  · have hturn : ¬(s.turn = .tone ∧ s.toneEn = true) := by
      rintro ⟨htone, he⟩
      simp [htone, he] at ht
    simp [agentStep, hf, hturn, ha, hp, hn]

/-- Settles O20: an outside host with nothing pending has no command, so the block is idle (`agentStep_idle`). -/
theorem idleBlockWaitsForHost : Obligations.IdleBlockWaitsForHost := by
  intro cfg s hf ha hprog hp
  rw [agentStep_idle hf ha hp (nextCommand_external hprog)]
  exact ⟨fun he => if_neg (by simp [he]), fun he => if_pos he⟩

/-! ## The generator and the audio line (R203, R204) -/

/-- While enabled and programmed, the generator runs at CLOCK_RATE / CMP. -/
theorem outputFrequency_running {cfg : WfConfig} {s : State} {c : BitVec 32} (he : s.toneEn = true)
    (hv : s.cmpValid = true) (hc : s.cmp = some c) :
    outputFrequency cfg s = some ((cfg.config.clockRate : ℚ) / (c.toNat : ℚ)) := by
  simp [outputFrequency, he, hv, hc]

/-- Otherwise it has no frequency. -/
theorem outputFrequency_stopped {cfg : WfConfig} {s : State} (h : s.toneEn = false ∨ s.cmpValid = false) :
    outputFrequency cfg s = none := by
  obtain h | h := h <;> simp [outputFrequency, h]

/-- After a tick, an enabled generator runs at CLOCK_RATE over the compare value. -/
theorem outputFrequency_tick (cfg : WfConfig) {s : State} (he : s.toneEn = true) :
    outputFrequency cfg (tick cfg s) = some ((cfg.config.clockRate : ℚ) / (compareAt cfg.config s.t.toNat : ℚ)) := by
  rw [outputFrequency_running (s := tick cfg s) he rfl rfl, compareAt_toNat]

/-- The compare value being a floor, the frequency it gives is at least the target (R200, R203). -/
theorem targetFrequency_le {clockRate f0 k : Nat} (hf0 : 1 ≤ f0) (hc : 1 ≤ compareValue clockRate f0 k) :
    targetFrequency f0 k ≤ (clockRate : ℚ) / (compareValue clockRate f0 k : ℚ) := by
  have hcpos : (0 : ℚ) < (compareValue clockRate f0 k : ℚ) := Nat.cast_pos.mpr hc
  have hfpos : 0 < targetFrequency f0 k := by
    have : (0 : ℚ) < f0 := Nat.cast_pos.mpr hf0
    rw [targetFrequency_eq]
    positivity
  have hfloor : (compareValue clockRate f0 k : ℚ) ≤ (clockRate : ℚ) / targetFrequency f0 k := by
    have := Int.floor_le ((clockRate : ℚ) / targetFrequency f0 k)
    rwa [← compareValue_eq_floor, Int.cast_natCast] at this
  exact (le_div_comm₀ hcpos hfpos).mp hfloor

/-- Settles O33: the frequency in each case, and after a tick the floor's bound on it. -/
theorem generatorFrequencyFollowsCmp : Obligations.GeneratorFrequencyFollowsCmp := by
  refine fun cfg s => ⟨fun c => outputFrequency_running, outputFrequency_stopped, fun he => ?_⟩
  have hnote := note_pos cfg (noteFrequency_mem cfg.config s.t.toNat)
  exact ⟨_, outputFrequency_tick cfg he, targetFrequency_le hnote (compareAt_range cfg s.t.toNat).1⟩

/-- Settles O40: the audio line's level reads TONE_EN and the draw, and nothing else. -/
theorem audioLineLevel : Obligations.AudioLineLevel := by
  intro cfg draw s k
  rw [level, audioLevel]
  exact ⟨fun he => if_neg (by simp [he]), fun he => if_pos he⟩

end Sys2Proof.Machine
end

section
/-! SUPPORT and the settled statements of 42_host_software.md: the renderer's map and the font, what the procedures' commands
leave in the buffer, and HOST's own program. -/

namespace Sys2Proof.Machine

/-! ## The renderer's map (R236, R237) -/

/-- The check after the remap admits the positions 0..6, since R13 keeps REMAP_FROM at most 7 (R236). -/
theorem physPos_isSome_iff (cfg : WfConfig) (pos : Nat) : (∃ p, physPos cfg pos = some p) ↔ pos ≤ 6 := by
  have hrf := remapFrom_le cfg
  have hvalid : remapped cfg pos ≤ 7 ↔ pos ≤ 6 := by
    have := remapped_cases cfg pos
    omega
  rw [← hvalid]
  constructor
  · rintro ⟨p, hp⟩
    exact (physPos_eq_some.mp hp).1
  · intro h
    exact ⟨_, if_neg h.not_gt⟩

/-- The remap moves no position onto REMAP_FROM, so the renderer reaches every digit but SKIP. -/
theorem physPos_ne_skipDigit {cfg : WfConfig} {pos : Nat} {p : Slot} (h : physPos cfg pos = some p) :
    p ≠ skipDigit cfg := by
  rintro rfl
  obtain ⟨hle, hval⟩ := physPos_eq_some.mp h
  rw [skipDigit_toNat] at hval
  have hcases := remapped_cases cfg pos
  have hrf := remapFrom_le cfg
  omega

/-- The remap keeps different positions apart, and so does the mirror. -/
theorem physPos_injective {cfg : WfConfig} {pos pos' : Nat} {p : Slot} (h : physPos cfg pos = some p)
    (h' : physPos cfg pos' = some p) : pos = pos' := by
  obtain ⟨hle, hval⟩ := physPos_eq_some.mp h
  obtain ⟨hle', hval'⟩ := physPos_eq_some.mp h'
  have hcases := remapped_cases cfg pos
  have hcases' := remapped_cases cfg pos'
  omega

/-- A digit other than SKIP is reached from its mirror, or from the position before it where the remap moves that one up. -/
theorem exists_physPos {cfg : WfConfig} {p : Slot} (h : p ≠ skipDigit cfg) : ∃ pos, physPos cfg pos = some p := by
  have hne : p.toNat ≠ 7 - cfg.config.remapFrom := by
    rw [← skipDigit_toNat]
    exact mt BitVec.eq_of_toNat_eq h
  have hrf := remapFrom_le cfg
  obtain hlt | hge := Nat.lt_or_ge (7 - p.toNat) cfg.config.remapFrom
  · have hcases := remapped_cases cfg (7 - p.toNat)
    exact ⟨7 - p.toNat, physPos_eq_some.mpr (by omega)⟩
  · have hcases := remapped_cases cfg (6 - p.toNat)
    exact ⟨6 - p.toNat, physPos_eq_some.mpr (by omega)⟩

theorem putc_of_physPos {cfg : WfConfig} {pos : Nat} {p : Slot} (h : physPos cfg pos = some p) (ch : Byte) :
    putc cfg pos ch = [.wrbuf p (fontMask cfg ch)] := by rw [putc, h]

theorem putc_of_invalid {cfg : WfConfig} {pos : Nat} (h : 7 ≤ pos) (ch : Byte) : putc cfg pos ch = [] := by
  have hnone : physPos cfg pos = none := by
    rw [Option.eq_none_iff_forall_ne_some]
    intro p hp
    exact h.not_gt (Nat.lt_succ_of_le ((physPos_isSome_iff cfg pos).mp ⟨p, hp⟩))
  rw [putc, hnone]

/-- PUTC's one command is a WRBUF of a digit other than SKIP. -/
theorem wrbuf_skipDigit_notMem_putc (cfg : WfConfig) (pos : Nat) (ch v : Byte) :
    Instr.wrbuf (skipDigit cfg) v ∉ putc cfg pos ch := by
  cases hp : physPos cfg pos with
  | none => simp [putc, hp]
  | some p =>
    have hskip := physPos_ne_skipDigit hp
    simp [putc_of_physPos hp, hskip.symm]

/-- Settles O42: what the map reaches (`physPos_isSome_iff`, `exists_physPos`), what it does not (`physPos_ne_skipDigit`), and
that it keeps positions apart. -/
theorem rendererMapIsABijection : Obligations.RendererMapIsABijection := fun cfg =>
  ⟨wrbuf_skipDigit_notMem_putc cfg, physPos_isSome_iff cfg, fun _ _ _ => physPos_injective,
    fun _ => ⟨fun ⟨_, hp⟩ => physPos_ne_skipDigit hp, exists_physPos⟩⟩

/-! ## The font (R231 to R235) -/

theorem foldCase_lower {x : Byte} (h : 0x61 ≤ x.toNat) (h' : x.toNat ≤ 0x7A) : foldCase x = x - 0x20 := if_pos ⟨h, h'⟩

theorem foldCase_of_not_lower {x : Byte} (h : ¬(0x61 ≤ x.toNat ∧ x.toNat ≤ 0x7A)) : foldCase x = x := if_neg h

/-- A folded letter does not fold again. -/
theorem foldCase_upper_of_lower {x : Byte} (h : 0x61 ≤ x.toNat) (h' : x.toNat ≤ 0x7A) :
    foldCase (x - 0x20) = x - 0x20 := foldCase_of_not_lower (by bv_omega)

/-- Every drawn symbol is a digit or an uppercase letter (R235). -/
theorem glyphSymbols_range : ∀ g ∈ glyphSymbols,
    (0x30 ≤ g.toNat ∧ g.toNat ≤ 0x39) ∨ (0x41 ≤ g.toNat ∧ g.toNat ≤ 0x5A) := by decide

/-- A code that folds to no drawn symbol has the blank mask, by membership. -/
theorem fontMask_of_notMem {cfg : WfConfig} {x : Byte} (h : foldCase x ∉ glyphSymbols) : fontMask cfg x = 0x00 :=
  fontMask_blank (List.idxOf?_eq_none_iff.mpr h)

/-- Settles O43: both cases of a letter fold to the uppercase one, and a blank letter or other code folds to no drawn symbol
(`fontMask_of_notMem`). -/
theorem fontBlanksAndFolds : Obligations.FontBlanksAndFolds := by
  refine fun cfg x => ⟨fun h h' => ?folds, fun hblank => fontMask_of_notMem ?letter, fun hdigit hupper hlower =>
    fontMask_of_notMem fun hmem => ?other⟩
  case folds => rw [fontMask, fontMask, foldCase_lower h h', foldCase_upper_of_lower h h']
  case letter =>
    have hletters : ∀ b ∈ ([0x44, 0x46, 0x4F, 0x51, 0x54, 0x57, 0x58, 0x5A] : List Byte),
        foldCase b ∉ glyphSymbols := by decide
    exact hletters x hblank
  case other =>
    rw [foldCase_of_not_lower hlower] at hmem
    exact (glyphSymbols_range x hmem).elim hdigit hupper

/-- The drawn symbols are their own case and are listed once each, so symbol i is found at i. -/
theorem idxOf?_glyphSymbols : ∀ i : Fin 28, glyphSymbols.idxOf? (foldCase (glyphSymbols.getD i.val 0)) = some i.val := by
  decide

/-- Settles O44: the lookup finds symbol i at i (`idxOf?_glyphSymbols`), and takes FONT's entry i. -/
theorem drawnGlyphsComeFromTheFont : Obligations.DrawnGlyphsComeFromTheFont := by
  intro cfg i
  rw [fontMask_drawn (idxOf?_glyphSymbols i), List.getD_eq_getElem _ _ (by simp), Vector.getElem_toList]
  rfl

/-! ## What PUTC and PUTS leave in the buffer (R238 to R241) -/

/-- After INIT, PUTC at a valid position writes its symbol's mask to that position's entry. -/
theorem execAll_putc {cfg : WfConfig} {pos : Nat} {p : Slot} (hp : physPos cfg pos = some p) (ch : Byte) {s : State}
    (hd : s.initDone = true) : execAll (putc cfg pos ch) s = .next (memWrite p (fontMask cfg ch) s) := by
  rw [putc_of_physPos hp, execAll_cons_of_next (exec_ready (.inr hd))]
  rfl

/-- Settles O45: PUTC's one write (`execAll_putc`), by what a read finds after it, and no command where the position is
invalid. -/
theorem putcWritesTheGlyph : Obligations.PutcWritesTheGlyph := by
  refine fun cfg pos ch s => ⟨fun hpos hd => ?_, fun hpos => putc_of_invalid hpos ch⟩
  obtain ⟨p, hp⟩ := (physPos_isSome_iff cfg pos).mpr hpos
  refine ⟨p, Memory.write s.buf p.toNat (fontMask cfg ch), hp, execAll_putc hp ch hd, ?own, fun a ha => ?others⟩
  case own => rw [read_write, if_pos rfl]
  case others => rw [read_write, if_neg ha]

/-- `m'` is `m` with the text's masks at the positions it reaches from `start` on, and nothing else changed (R240, R241). -/
def ShowsText (cfg : WfConfig) (start : Nat) (text : List Byte) (m m' : Memory) : Prop :=
  (∀ (i : Nat) (p : Slot), i < text.length → physPos cfg (start + i) = some p →
    Memory.read m' p.toNat = fontMask cfg (text.getD i 0)) ∧
  ∀ a : Nat, (∀ (i : Nat) (p : Slot), i < text.length → physPos cfg (start + i) = some p → a ≠ p.toNat) →
    Memory.read m' a = Memory.read m a

/-- A text that reaches no position changes nothing. -/
theorem showsText_of_unreached {cfg : WfConfig} {start : Nat} {text : List Byte}
    (h : ∀ i < text.length, 7 ≤ start + i) (m : Memory) : ShowsText cfg start text m m := by
  refine ⟨fun i p hi hp => ?_, fun _ _ => rfl⟩
  have hvalid := (physPos_isSome_iff cfg (start + i)).mp ⟨p, hp⟩
  have := h i hi
  omega

/-- A text is shown by writing its first character and then showing the rest from the next position on: no later position
writes the first one's entry again (`physPos_injective`). -/
theorem showsText_cons {cfg : WfConfig} {start : Nat} {p : Slot} {ch : Byte} {rest : List Byte} {m m' : Memory}
    (hp : physPos cfg start = some p)
    (h : ShowsText cfg (start + 1) rest (Memory.write m p.toNat (fontMask cfg ch)) m') :
    ShowsText cfg start (ch :: rest) m m' := by
  obtain ⟨hshown, hkept⟩ := h
  have hstart (i : Nat) : start + 1 + i = start + (i + 1) := by omega
  constructor
  · intro i q hi hq
    cases i with
    | zero =>
      obtain rfl : p = q := Option.some.inj (hp.symm.trans hq)
      rw [hkept p.toNat fun i q _ hq heq => ?_, read_write, if_pos rfl]
      · rfl
      · obtain rfl : p = q := BitVec.eq_of_toNat_eq heq
        have := physPos_injective hp hq
        omega
    | succ i => exact hshown i q (Nat.lt_of_succ_lt_succ hi) (hstart i ▸ hq)
  · intro a ha
    rw [hkept a fun i q hi hq => ha (i + 1) q (Nat.succ_lt_succ hi) (hstart i ▸ hq), read_write,
      if_neg (ha 0 p (Nat.succ_pos _) hp)]

/-- After INIT, PUTS completes and shows its text; it changes nothing but the buffer. -/
theorem execAll_puts (cfg : WfConfig) (start : Nat) (text : List Byte) {s : State} (hd : s.initDone = true) :
    ∃ m, execAll (puts cfg start text) s = .next { s with buf := m } ∧ ShowsText cfg start text s.buf m := by
  induction text generalizing start s with
  | nil => exact ⟨s.buf, rfl, showsText_of_unreached (fun _ h => absurd h (Nat.not_lt_zero _)) s.buf⟩
  | cons ch rest ih =>
    rw [puts]
    split
    · rename_i hstart
      obtain ⟨p, hp⟩ := (physPos_isSome_iff cfg start).mpr hstart
      obtain ⟨m, hrun, hshows⟩ := ih (start + 1) (s := memWrite p (fontMask cfg ch) s) hd
      exact ⟨m, (execAll_append_of_next (execAll_putc hp ch hd)).trans hrun, showsText_cons hp hshows⟩
    · exact ⟨s.buf, rfl, showsText_of_unreached (fun _ _ => by omega) s.buf⟩

/-- Settles O46: character by character from the left (`execAll_puts`). -/
theorem putsWritesLeftToRight : Obligations.PutsWritesLeftToRight :=
  fun cfg start text _ hd => execAll_puts cfg start text hd

/-! ## SCROLL_STEP (R242 to R244) -/

/-- In R48's range the window's offset stays inside MSG (R243). -/
theorem scrollOffset_lt {cfg : WfConfig} {c : Nat} (h : c < 50 * cfg.config.msgLength) :
    scrollOffset c < cfg.config.msgLength := Nat.div_lt_of_lt_mul h

/-- Until the end of the message each call adds 1 to C. -/
theorem scrollCalls_hostC {cfg : WfConfig} {k : Nat} {s : State} (h : s.hostC + k < 50 * cfg.config.msgLength) :
    (scrollCalls cfg k s).hostC = s.hostC + k := by
  induction k generalizing s with
  | zero => rfl
  | succ k ih =>
    have hnext : (scrollStep cfg s).2.hostC = s.hostC + 1 := Nat.mod_eq_of_lt (show _ < 50 * _ by omega)
    rw [scrollCalls, ih (by omega), hnext]
    omega

/-- The window that SCROLL_STEP shows is the rest of MSG from the offset on (R242). -/
theorem showsText_drop {cfg : WfConfig} {msg : List Byte} {o : Nat} {m m' : Memory}
    (h : ShowsText cfg 0 (msg.drop o) m m') :
    (∀ (i : Nat) (p : Slot), o + i < msg.length → physPos cfg i = some p →
      Memory.read m' p.toNat = fontMask cfg (msg.getD (o + i) 0)) ∧
    ∀ a : Nat, (∀ (i : Nat) (p : Slot), o + i < msg.length → physPos cfg i = some p → a ≠ p.toNat) →
      Memory.read m' a = Memory.read m a := by
  have hlt (i : Nat) : i < (msg.drop o).length ↔ o + i < msg.length := by
    rw [List.length_drop]
    omega
  have hget (i : Nat) : (msg.drop o).getD i 0 = msg.getD (o + i) 0 := by
    rw [List.getD_eq_getElem?_getD, List.getElem?_drop, ← List.getD_eq_getElem?_getD]
  simpa only [ShowsText, hlt, hget, Nat.zero_add] using h

/-- Settles O47: the counter by induction on the calls (`scrollCalls_hostC`), its range, and the window by PUTS
(`execAll_puts`). -/
theorem scrollOffsetAdvances : Obligations.ScrollOffsetAdvances := by
  refine fun cfg s => ⟨fun n hn hc => ?calls, fun hc => ⟨scrollOffset_lt hc, nextC_lt cfg s.hostC⟩, fun hd => ?window, rfl⟩
  case calls =>
    have hcalls : (scrollCalls cfg (50 * n) s).hostC = 50 * n := by
      rw [scrollCalls_hostC (by omega), hc, Nat.zero_add]
    exact ⟨hcalls, by rw [hcalls]; exact Nat.mul_div_cancel_left n (by decide)⟩
  case window =>
    obtain ⟨m, hrun, hshows⟩ := execAll_puts cfg 0 (cfg.config.msg.drop (scrollOffset s.hostC)) hd
    exact ⟨m, hrun, showsText_drop hshows⟩

/-! ## WAVE_STEP (R245, R246) -/

/-- Writing to each of these entries the byte that is its own leaves that byte there, in whatever order and however often. -/
theorem read_foldl_write (f : Slot → Byte) (ds : List Slot) (m : Memory) (d : Slot) :
    Memory.read (ds.foldl (fun m d => Memory.write m d.toNat (f d)) m) d.toNat =
      if d ∈ ds then f d else Memory.read m d.toNat := by
  induction ds generalizing m with
  | nil => rfl
  | cons e rest ih =>
    rw [List.foldl_cons, ih, read_write]
    by_cases hrest : d ∈ rest <;> by_cases he : d = e <;> simp [hrest, he, BitVec.toNat_inj]

theorem mem_slots (d : Slot) : d ∈ slots := by
  revert d
  decide

/-- After INIT, WAVE_STEP's eight writes complete and leave each entry its own segment. -/
theorem execAll_waveCommands (ph : Nat) {s : State} (hd : s.initDone = true) :
    ∃ m, execAll (waveCommands ph) s = .next { s with buf := m } ∧
      ∀ d : Slot, Memory.read m d.toNat = 1#8 <<< waveSegment (waveRotation ph) d := by
  refine ⟨_, execAll_wrbufs (slots.map fun d => (d, 1#8 <<< waveSegment (waveRotation ph) d)) hd, fun d => ?_⟩
  rw [List.foldl_map, read_foldl_write (fun d => 1#8 <<< waveSegment (waveRotation ph) d), if_pos (mem_slots d)]

/-- Rotated by the same amount, different digits have different segments (R246). -/
theorem waveSegment_injective (r : Nat) : Function.Injective (waveSegment r) := by
  intro d d' h
  simp only [waveSegment, nDigits] at h
  bv_omega

/-- Eight different segments below 8 are all of them. -/
theorem waveSegments_perm (r : Nat) : (slots.map (waveSegment r)).Perm (List.range 8) := by
  have hnodup : (slots.map (waveSegment r)).Nodup := List.Nodup.map (waveSegment_injective r) (by decide)
  refine (hnodup.subperm fun k hk => ?_).perm_of_length_le (Nat.le_refl 8)
  obtain ⟨d, -, rfl⟩ := List.mem_map.mp hk
  exact List.mem_range.mpr (Nat.mod_lt _ (by decide))

/-- Settles O48: the eight writes (`execAll_waveCommands`) and the rotation's injectivity (`waveSegments_perm`). -/
theorem waveIsAPermutation : Obligations.WaveIsAPermutation := by
  intro s hd
  obtain ⟨m, hrun, hread⟩ := execAll_waveCommands s.hostPh hd
  exact ⟨m, hrun, hread, waveSegments_perm _, rfl⟩

/-! ## MAIN's order (R247, log 11) -/

/-- What the end of a HOST step leaves after the last command of an animation step: its counter written, SCAN next. -/
def afterCall (cfg : WfConfig) (s : State) : State :=
  { s with
    hostC := if cfg.config.animation = .scroll then nextC cfg s.hostC else s.hostC
    hostPh := if cfg.config.animation = .wave then nextPh s.hostPh else s.hostPh
    program := .issuing [.scan] }

theorem endCall_last {cfg : WfConfig} {s : State} (hp : s.program = .calling []) (hf : s.fault = .noFault) :
    endCall cfg s = afterCall cfg s := by
  rw [endCall, if_pos ⟨hp, hf⟩, animationStep_state]
  rfl

theorem endCall_of_not_last {cfg : WfConfig} {s : State} (h : ¬(s.program = .calling [] ∧ s.fault = .noFault)) :
    endCall cfg s = s := if_neg h

/-- Short of an animation step's last command the end of the HOST step does nothing: no command moves HOST's program. -/
theorem onNext_endCall_exec {cfg : WfConfig} {i : Instr} {u : State} (h : u.program ≠ .calling []) :
    onNext (endCall cfg) (exec i u) = exec i u := by
  obtain ⟨-, hx⟩ | ⟨-, -, hx⟩ := exec_cases i u <;> rw [hx, onNext_next, endCall_of_not_last]
  · rw [effectOf_program]
    exact fun hend => h hend.1
  · exact fun hend => h hend.1

section
variable {cfg : WfConfig} {s u : State} {i : Instr} (hf : s.fault = .noFault) (ha : s.scanActive = false)
  (ht : s.turn = .hostOrScan ∨ s.toneEn = false) (hp : s.pending = []) (hc : nextCommand cfg s = some (i, u))
include hf ha ht hp hc

/-- Where HOST moves with its own program's next command, the block's step is that command and then the end of the HOST
step. -/
theorem agentStep_nextCommand : agentStep cfg s = onNext (endCall cfg) (exec i u) := by
  rw [agentStep_program hf ha ht hp hc, hostStep_of_decode (decode_encode i)]

/-- Short of an animation step's last command, the block's step is that command. -/
theorem agentStep_not_last (hu : u.program ≠ .calling []) : agentStep cfg s = exec i u :=
  (agentStep_nextCommand hf ha ht hp hc).trans (onNext_endCall_exec hu)

/-- With the last one, let through by the gate, it is that command and the write of the counter. -/
theorem agentStep_last (hu : u.program = .calling []) (hg : isGated i = false ∨ u.initDone = true) :
    agentStep cfg s = .next (afterCall cfg (effectOf i u)) := by
  have hfault : (effectOf i u).fault = .noFault := by
    rw [(effectOf_faultSame i u).1, nextCommand_block hc, hf]
  rw [agentStep_nextCommand hf ha ht hp hc, exec_ready hg, onNext_next,
    endCall_last ((effectOf_program i u).trans hu) hfault]

/-- With a command that the gate stops, it is the fault alone: the procedure never gets to its counter (R284). -/
theorem agentStep_shut (hg : isGated i = true) (hd : u.initDone = false) : agentStep cfg s = exec i u := by
  rw [agentStep_nextCommand hf ha ht hp hc, exec_shut hg hd, onNext_next, endCall_of_not_last (by simp)]

end

/-- One generator's commands, by ANIMATION. -/
theorem animationStep_commands (cfg : WfConfig) (s : State) :
    (animationStep cfg s).1 =
      if cfg.config.animation = .scroll then (scrollStep cfg s).1 else (waveStep s).1 := by
  rw [animationStep]
  cases cfg.config.animation <;> rfl

/-- The command that leaves HOST past an animation step's last one was that last one. -/
theorem nextCommand_last {cfg : WfConfig} {s u : State} {i : Instr} (h : nextCommand cfg s = some (i, u))
    (hu : u.program = .calling []) :
    s.program = .calling [i] ∨ (s.program = .issuing [] ∧ (animationStep cfg s).1 = [i]) := by
  obtain ⟨rest, -, rfl⟩ | ⟨rest, hp, hc, rfl⟩ | ⟨rest, hp, rfl⟩ | ⟨-, -, rfl⟩ := nextCommand_cases h
  · cases hu
  · cases hu
    exact .inr ⟨hp, hc⟩
  · cases hu
    exact .inl hp
  · cases hu

/-- Under R48's invariant a step moves no counter, unless it is HOST's with an animation step's last command. -/
theorem counters_of_agentStep {cfg : WfConfig} {s t : State} (hs : HostInv cfg s) (h : agentStep cfg s = .next t) :
    (t.hostC = s.hostC ∧ t.hostPh = s.hostPh) ∨
      (s.scanActive = false ∧ s.pending = [] ∧ t.fault = .noFault ∧ t.program = .issuing [.scan] ∧
        ∃ i, s.program = .calling [i] ∨ (s.program = .issuing [] ∧ (animationStep cfg s).1 = [i])) := by
  obtain ⟨hf, ⟨-, rfl⟩ | ⟨-, hst⟩ | ⟨-, w, rest, -, hst⟩ | ⟨ha, hp, i, u, v, hn, hst, rfl⟩ | ⟨-, -, -, -, rfl⟩⟩ :=
    agentStep_cases h
  · exact .inl ⟨rfl, rfl⟩
  · obtain ⟨hc, hph, -⟩ := scanStep_host hst
    exact .inl ⟨hc, hph⟩
  · obtain ⟨hc, hph, -⟩ := hostStep_host hst
    exact .inl ⟨hc, hph⟩
  · obtain ⟨hc, hph, hprog⟩ := hostStep_host hst
    obtain ⟨hend, hvf, heq⟩ | ⟨-, heq⟩ := endCall_cases cfg v <;> rw [heq]
    · exact .inr ⟨ha, hp, hvf, rfl, i, nextCommand_last hn (hprog.symm.trans hend)⟩
    · obtain ⟨huc, huph⟩ := nextCommand_counters hs hf hn
      exact .inl ⟨hc.trans huc, hph.trans huph⟩
  · exact .inl ⟨rfl, rfl⟩

/-- Settles O60: each place of HOST's program by the command that it gives next and what the end of that HOST step does
(`agentStep_not_last`, `agentStep_last`, `agentStep_shut`), and the counters' frame (`counters_of_agentStep`). -/
theorem mainRunsItsLoopInOrder : Obligations.MainRunsItsLoopInOrder := by
  refine ⟨rfl, fun cfg s => ⟨fun hf ha ht hp => ⟨?issuing, ?call, ?calling, ?last, ?shut⟩, fun hs sched t h => ?counters⟩⟩
  case issuing => exact fun i rest hprog => agentStep_not_last hf ha ht hp (nextCommand_issuing hprog) nofun
  case call =>
    intro hprog hs
    obtain ⟨i, rest, hc⟩ := List.exists_cons_of_ne_nil (animation_ne_nil hs)
    have hcalling := agentStep_nextCommand (cfg := cfg) (s := { s with program := .calling (i :: rest) }) hf ha ht hp
      (nextCommand_calling rfl)
    exact ⟨i, rest, (animationStep_commands cfg s).symm.trans hc,
      (agentStep_nextCommand hf ha ht hp (nextCommand_call hprog hc)).trans hcalling.symm⟩
  case calling => exact fun i j rest hprog => agentStep_not_last hf ha ht hp (nextCommand_calling hprog) nofun
  case last =>
    intro i hprog hg
    refine ⟨_, exec_ready hg, (agentStep_last hf ha ht hp (nextCommand_calling hprog) rfl hg).trans ?_⟩
    rw [afterCall, effectOf_hostC, effectOf_hostPh]
    rfl
  case shut => exact fun i hprog => agentStep_shut hf ha ht hp (nextCommand_calling hprog)
  case counters =>
    obtain ⟨u, hu, rfl⟩ := stepWith_cases h
    have hcounters := counters_of_agentStep hs hu
    exact hcounters

/-! ## MAIN never faults (R247, R248, R323) -/

/-- What MAIN's invariant says of a command that HOST takes, and of where that leaves HOST: no RDBUF now or later, INIT first,
and still in MAIN. -/
structure MainCommand (s : State) (i : Instr) (u : State) : Prop where
  noRead : ∀ p, i ≠ .rdbuf p
  initFirst : i = .init ∨ s.initDone = true
  isMain : u.program ≠ .external
  noReadLeft : ∀ j ∈ commandsLeft u.program, ∀ p, j ≠ .rdbuf p

/-- No animation step reads the buffer back (R248). -/
theorem animation_ne_rdbuf {cfg : WfConfig} {s : State} {i : Instr} (h : i ∈ (animationStep cfg s).1) (p : Slot) :
    i ≠ .rdbuf p := by
  obtain ⟨q, v, rfl⟩ := animation_wrbuf h
  exact nofun

/-- A command off the front of those that MAIN has made up. -/
theorem mainCommand_of_commandsLeft {s : State} {i : Instr} {rest : List Instr} {prog : HostProgram} (hs : MainInv s)
    (hleft : commandsLeft s.program = i :: rest) (hprog : prog ≠ .external) (hrest : commandsLeft prog = rest) :
    MainCommand s i { s with program := prog } where
  noRead := hs.noRead i (by simp [hleft])
  initFirst := by simpa [hleft, or_comm] using hs.initFirst
  isMain := hprog
  noReadLeft j hj := hs.noRead j (hleft ▸ List.mem_cons_of_mem i (hrest ▸ hj))

/-- Once nothing is left to issue, INIT has been. -/
theorem initDone_of_commandsLeft_nil {s : State} (hs : MainInv s) (hleft : commandsLeft s.program = []) :
    s.initDone = true := by simpa [hleft] using hs.initFirst

/-- Every command of MAIN's is such a command, whichever way HOST comes by it. -/
theorem mainCommand_of_nextCommand {cfg : WfConfig} {s u : State} {i : Instr} (hs : MainInv s)
    (h : nextCommand cfg s = some (i, u)) : MainCommand s i u := by
  obtain ⟨rest, hp, rfl⟩ | ⟨rest, hp, hc, rfl⟩ | ⟨rest, hp, rfl⟩ | ⟨hp, rfl, rfl⟩ := nextCommand_cases h
  · exact mainCommand_of_commandsLeft hs (congrArg commandsLeft hp) nofun rfl
  · have hread : ∀ j ∈ i :: rest, ∀ p, j ≠ .rdbuf p := fun j hj => animation_ne_rdbuf (hc ▸ hj)
    exact ⟨hread i List.mem_cons_self, .inr (initDone_of_commandsLeft_nil hs (congrArg commandsLeft hp)), nofun,
      fun j hj => hread j (List.mem_cons_of_mem i hj)⟩
  · exact mainCommand_of_commandsLeft hs (congrArg commandsLeft hp) nofun rfl
  · have hleft : commandsLeft s.program = [] := hp.elim (congrArg commandsLeft) fun hp => congrArg commandsLeft hp.1
    exact ⟨nofun, .inr (initDone_of_commandsLeft_nil hs hleft), nofun, nofun⟩

/-- A step that leaves HOST's place, INIT_DONE and FAULT alone keeps MAIN's invariant, if SCAN_POS stays in range. -/
theorem mainInv_of_same {s t : State} (hs : MainInv s) (hfault : t.fault = s.fault) (hpos : t.scanPos.toNat ≤ 8)
    (hpending : t.pending = s.pending) (hprogram : t.program = s.program) (hinit : t.initDone = s.initDone) :
    MainInv t where
  unfaulted := hfault.trans hs.unfaulted
  posRange := hpos
  alone := hpending.trans hs.alone
  isMain := hprogram ▸ hs.isMain
  noRead := hprogram ▸ hs.noRead
  initFirst := by rw [hinit, hprogram]; exact hs.initFirst

@[simp] theorem effectOf_pending (i : Instr) (s : State) : (effectOf i s).pending = s.pending := by cases i <;> rfl

/-- No command takes SCAN_POS out of R38's range: SCAN clears it, and the others leave it. -/
theorem effectOf_scanPos_le {i : Instr} {s : State} (h : s.scanPos.toNat ≤ 8) : (effectOf i s).scanPos.toNat ≤ 8 := by
  cases i with
  | scan => exact Nat.zero_le 8
  | nop | init | wrbuf | rdbuf | toneStart => exact h

/-- INIT opens the gate and nothing shuts it (R34). -/
theorem effectOf_initDone {i : Instr} {s : State} (h : i = .init ∨ s.initDone = true) :
    (effectOf i s).initDone = true := by
  cases i with
  | init => rfl
  | nop | wrbuf | rdbuf | scan | toneStart => exact h.resolve_left nofun

/-- Only RDBUF responds (R146). -/
theorem effectOf_responses {i : Instr} {s : State} (h : ∀ p, i ≠ .rdbuf p) : (effectOf i s).responses = s.responses := by
  cases i with
  | rdbuf p => exact absurd rfl (h p)
  | nop | init | wrbuf | scan | toneStart => rfl

/-- The end of a HOST step leaves MAIN's invariant, SCAN being no RDBUF. -/
theorem mainInv_endCall {cfg : WfConfig} {s : State} (hs : MainInv s) (hd : s.initDone = true) :
    MainInv (endCall cfg s) := by
  obtain ⟨-, -, h⟩ | ⟨-, h⟩ := endCall_cases cfg s <;> rw [h]
  · exact ⟨hs.unfaulted, hs.posRange, hs.alone, nofun, by simp [commandsLeft], .inl hd⟩
  · exact hs

/-- The end of a HOST step is no response. -/
theorem endCall_responses (cfg : WfConfig) (s : State) : (endCall cfg s).responses = s.responses := by
  rw [endCall_block]

/-- Where HOST moves, MAIN's next command passes the gate and leaves HOST in MAIN, with no response. -/
theorem agentStep_main_host {cfg : WfConfig} {s : State} (hs : MainInv s) (ha : s.scanActive = false)
    (ht : s.turn = .hostOrScan ∨ s.toneEn = false) :
    ∃ t, agentStep cfg s = .next t ∧ MainInv t ∧ t.responses = s.responses := by
  obtain ⟨⟨i, u⟩, hn⟩ := Option.isSome_iff_exists.mp (nextCommand_isSome (cfg := cfg) hs.isMain)
  obtain ⟨noRead, initFirst, isMain, noReadLeft⟩ := mainCommand_of_nextCommand hs hn
  have hu := nextCommand_block hn
  have hinit : i = .init ∨ u.initDone = true := by rwa [hu]
  have hgate : isGated i = false ∨ u.initDone = true := hinit.imp_left (congrArg isGated)
  have hinv : MainInv (effectOf i u) := by
    refine ⟨?fault, effectOf_scanPos_le ?pos, ?pending, ?main, ?read, .inl (effectOf_initDone hinit)⟩
    case fault => rw [(effectOf_faultSame i u).1, hu, hs.unfaulted]
    case pos => rw [hu]; exact hs.posRange
    case pending => rw [effectOf_pending, hu, hs.alone]
    case main => rwa [effectOf_program]
    case read => rwa [effectOf_program]
  refine ⟨endCall cfg (effectOf i u), ?_, mainInv_endCall hinv (effectOf_initDone hinit), ?_⟩
  · rw [agentStep_nextCommand hs.unfaulted ha ht hs.alone hn, exec_ready hgate, onNext_next]
  · rw [endCall_responses, effectOf_responses noRead, hu]

/-- A SCAN step in range leaves HOST where it is, and SCAN_POS in range. -/
theorem scanStep_main {s : State} (hs : MainInv s) :
    ∃ t, scanStep s = .next t ∧ MainInv t ∧ t.responses = s.responses := by
  obtain hlt | heq := Nat.lt_or_eq_of_le hs.posRange
  · have hpos : (slotStep (s.scanPos.setWidth 3) s).scanPos.toNat ≤ 8 := (slotPos_toNat hlt).trans_le hlt
    exact ⟨_, scanStep_slot hlt, mainInv_of_same hs rfl hpos rfl rfl rfl, rfl⟩
  · exact ⟨_, scanStep_end heq, mainInv_of_same hs rfl (Nat.zero_le 8) rfl rfl rfl, rfl⟩

/-- Whichever agent moves, the block has a step and HOST still runs MAIN. -/
theorem agentStep_main (cfg : WfConfig) {s : State} (hs : MainInv s) :
    ∃ t, agentStep cfg s = .next t ∧ MainInv t ∧ t.responses = s.responses := by
  obtain ⟨htone, he⟩ | ht := turn_cases s
  · exact ⟨_, agentStep_tone hs.unfaulted htone he, mainInv_of_same hs rfl hs.posRange rfl rfl rfl, rfl⟩
  · cases ha : s.scanActive with
    | true =>
      rw [agentStep_scan hs.unfaulted ha ht]
      exact scanStep_main hs
    | false => exact agentStep_main_host hs ha ht

/-- Settles O51: MAIN's invariant is kept by whichever agent moves (`agentStep_main`), and the draw of the next turn leaves it
alone. -/
theorem mainNeverFaults : Obligations.MainNeverFaults := by
  refine fun cfg sched s hs => ⟨nextCommand_isSome hs.isMain, ?_⟩
  obtain ⟨u, hu, hinv, hresp⟩ := agentStep_main cfg hs
  exact ⟨_, stepWith_of_agentStep hu, mainInv_of_same hinv rfl hinv.posRange rfl rfl rfl, hresp⟩

end Sys2Proof.Machine
end

section
/-! SUPPORT and the settled statements of 60_exceptions.md: who has a step, the faulted state, the order of HOST's checks, what
each command writes, and what a step that raises a fault leaves alone. -/

namespace Sys2Proof.Machine

/-! ## Who has a step (R284, R289) -/

theorem hostEnabled_iff (s : State) : hostEnabled s = true ↔ s.fault = .noFault ∧ s.scanActive = false := by
  rw [hostEnabled, Bool.and_eq_true, decide_eq_true_iff, Bool.not_eq_true']

theorem scanEnabled_iff (s : State) : scanEnabled s = true ↔ s.scanActive = true ∧ s.fault = .noFault := by
  rw [scanEnabled, Bool.and_eq_true, decide_eq_true_iff]

/-- Settles O19: HOST's step asks for SCAN_ACTIVE = 0 and SCAN's for SCAN_ACTIVE = 1. -/
theorem hostAndScanNeverBothEnabled : Obligations.HostAndScanNeverBothEnabled := by
  intro s
  rw [hostEnabled_iff, scanEnabled_iff]
  refine ⟨?both, fun hf => ?one⟩
  case both =>
    rintro ⟨⟨-, hidle⟩, hactive, -⟩
    exact absurd (hidle.symm.trans hactive) (by decide)
  case one =>
    cases hactive : s.scanActive with
    | false => exact .inl ⟨hf, rfl⟩
    | true => exact .inr ⟨rfl, hf⟩

/-- The check of FAULT comes before the choice of an agent. -/
theorem agentStep_faulted (cfg : WfConfig) {s : State} (hf : s.fault ≠ .noFault) :
    agentStep cfg s = .fault (.stopped s.fault) := if_pos hf

/-- Settles O36: no agent moves (`agentStep_faulted`), and the stop passes through the draw of the next turn. -/
theorem faultedMachineIsStuck : Obligations.FaultedMachineIsStuck := by
  intro s hf
  rw [step, stepWith_eq_onNext, agentStep_faulted _ hf]
  rfl

/-! ## The order of HOST's checks (R140, R290) -/

/-- Settles O15: the hold is the choice of SCAN, and then the word by its decoding and the command by its gate. -/
theorem hostStepChecksInOrder : Obligations.HostStepChecksInOrder := by
  intro cfg s w rest hf ha ht hp
  refine ⟨agentStep_scan hf rfl ht, fun hw => ?illegal, fun i hw hg hd => ?shut, fun i hw hg => ?runs⟩
  case illegal => exact (agentStep_host hf ha ht hp).trans (hostStep_illegal hw _)
  case shut =>
    obtain rfl := encode_of_decode hw
    exact (agentStep_exec hf ha ht hp hw).trans (exec_shut hg hd)
  case runs =>
    have hfault : (effectOf i { s with pending := rest }).fault = .noFault := (effectOf_faultSame i _).1.trans hf
    exact ⟨agentStep_exec hf ha ht hp hw, _, exec_ready hg, hfault⟩

/-! ## What each command writes (R296) -/

/-- No command writes the model's scheduling fields. -/
theorem effectOf_turnSame (i : Instr) (s : State) : TurnSame s (effectOf i s) := by
  cases i <;> exact ⟨rfl, rfl⟩

/-- Only INIT and WRBUF write the buffer (R143). -/
theorem effectOf_buf {i : Instr} {s : State} (hinit : i ≠ .init) (hwrbuf : ∀ p v, i ≠ .wrbuf p v) :
    (effectOf i s).buf = s.buf := by
  cases i with
  | init => exact absurd rfl hinit
  | wrbuf p v => exact absurd rfl (hwrbuf p v)
  | nop | rdbuf | scan | toneStart => rfl

/-- WRBUF writes its own byte alone (R144). -/
theorem read_effectOf_wrbuf_of_ne {p : Slot} {a : Nat} (v : Byte) (s : State) (ha : a ≠ p.toNat) :
    Memory.read (effectOf (.wrbuf p v) s).buf a = Memory.read s.buf a := (read_write ..).trans (if_neg ha)

/-- Only INIT writes OUT_EN, INIT_DONE and the lines (R34 to R37). -/
theorem effectOf_lines {i : Instr} {s : State} (h : i ≠ .init) :
    (effectOf i s).outEn = s.outEn ∧ (effectOf i s).initDone = s.initDone ∧ (effectOf i s).digSel = s.digSel ∧
      (effectOf i s).segOut = s.segOut := by
  cases i with
  | init => exact absurd rfl h
  | nop | wrbuf | rdbuf | scan | toneStart => exact ⟨rfl, rfl, rfl, rfl⟩

/-- Only SCAN writes SCAN_POS and SCAN_ACTIVE (R150). -/
theorem effectOf_scan {i : Instr} {s : State} (h : i ≠ .scan) :
    (effectOf i s).scanPos = s.scanPos ∧ (effectOf i s).scanActive = s.scanActive := by
  cases i with
  | scan => exact absurd rfl h
  | nop | init | wrbuf | rdbuf | toneStart => exact ⟨rfl, rfl⟩

/-- Only TONE_START writes TONE_EN (R192). -/
theorem effectOf_toneEn {i : Instr} {s : State} (h : i ≠ .toneStart) : (effectOf i s).toneEn = s.toneEn := by
  cases i with
  | toneStart => exact absurd rfl h
  | nop | init | wrbuf | rdbuf | scan => rfl

/-- Settles O35: a command has its effect, which writes each field only where the command is the one to write it, or the gate
stops it, and then FAULT and FAULT_CMD are all that is written. -/
theorem commandsWriteOnlyTheirOwnState : Obligations.CommandsWriteOnlyTheirOwnState := by
  intro i s t h
  obtain ⟨-, hx⟩ | ⟨hg, hd, hx⟩ := exec_cases i s <;> obtain rfl := Host.Outcome.next.inj (h.symm.trans hx)
  · refine ⟨effectOf_toneSame i s, effectOf_turnSame i s, effectOf_hostC i s, effectOf_hostPh i s, effectOf_pending i s,
      effectOf_program i s, effectOf_buf, ?wrbuf, effectOf_lines, effectOf_scan, effectOf_toneEn, effectOf_responses,
      fun _ => effectOf_faultSame i s⟩
    case wrbuf =>
      rintro p v rfl a ha
      exact read_effectOf_wrbuf_of_ne v s ha
  · refine ⟨⟨rfl, rfl, rfl⟩, ⟨rfl, rfl⟩, rfl, rfl, rfl, rfl, fun _ _ => rfl, fun _ _ _ _ _ => rfl,
      fun _ => ⟨rfl, rfl, rfl, rfl⟩, fun _ => ⟨rfl, rfl⟩, fun _ => rfl, fun _ => rfl, ?gate⟩
    case gate => simp [hg, hd]

/-! ## Faults are precise (R283, R291) -/

/-- Everything a HOST step can do to the fault record: nothing, or take a fault with the word it accepted. -/
theorem hostStep_fault_cases {w : Word} {s t : State} (h : hostStep w s = .next t) :
    FaultSame s t ∨ ∃ code, code ≠ .noFault ∧ t = raiseFault code w s := by
  obtain ⟨-, hst⟩ | ⟨i, hw, hst⟩ := hostStep_cases w s
  · exact .inr ⟨.illegalCommand, nofun, Host.Outcome.next.inj (h.symm.trans hst)⟩
  · obtain rfl := encode_of_decode hw
    obtain ⟨-, hx⟩ | ⟨-, -, hx⟩ := exec_cases i s <;> obtain rfl := Host.Outcome.next.inj (h.symm.trans (hst.trans hx))
    · exact .inl (effectOf_faultSame i s)
    · exact .inr ⟨.notInitialised, nofun, rfl⟩

theorem faultSame_of_scanStep {s t : State} (h : scanStep s = .next t) : FaultSame s t := by
  obtain ⟨-, rfl⟩ | ⟨-, rfl⟩ := scanStep_cases h <;> exact ⟨rfl, rfl⟩

theorem faultSame_trans {s u t : State} (h : FaultSame s u) (h' : FaultSame u t) : FaultSame s t :=
  ⟨h'.1.trans h.1, h'.2.trans h.2⟩

/-- Everything an agent's step can do to the fault record: nothing, or take a fault with the word that HOST accepts, from
outside or of its own program. -/
theorem agentStep_fault_cases {cfg : WfConfig} {s t : State} (h : agentStep cfg s = .next t) :
    FaultSame s t ∨
      (s.scanActive = false ∧ ∃ code, code ≠ .noFault ∧
        ((∃ w rest, s.pending = w :: rest ∧ t = raiseFault code w { s with pending := rest }) ∨
          (s.pending = [] ∧ ∃ i u, nextCommand cfg s = some (i, u) ∧ t = raiseFault code (encode i) u))) := by
  obtain ⟨-, ⟨-, rfl⟩ | ⟨-, hst⟩ | ⟨ha, w, rest, hp, hst⟩ | ⟨ha, hp, i, u, v, hn, hst, rfl⟩ | ⟨-, -, -, -, rfl⟩⟩ :=
    agentStep_cases h
  · exact .inl ⟨rfl, rfl⟩
  · exact .inl (faultSame_of_scanStep hst)
  · obtain hsame | ⟨code, hcode, rfl⟩ := hostStep_fault_cases hst
    · exact .inl hsame
    · exact .inr ⟨ha, code, hcode, .inl ⟨w, rest, hp, rfl⟩⟩
  · obtain hsame | ⟨code, hcode, rfl⟩ := hostStep_fault_cases hst
    · have hv : FaultSame s v := faultSame_trans (nextCommand_blockSame hn).fault hsame
      exact .inl (faultSame_trans hv (endCall_blockSame cfg v).fault)
    · exact .inr ⟨ha, code, hcode, .inr ⟨hp, i, u, hn, endCall_of_not_last fun hend => hcode hend.2⟩⟩
  · exact .inl ⟨rfl, rfl⟩

/-- Settles O37: a fault taken is the record written on the state with HOST past its word (`agentStep_fault_cases`), and the
draw of the next turn adds only the scheduling fields. -/
theorem faultsArePreciseAndFirst : Obligations.FaultsArePreciseAndFirst := by
  intro cfg sched s t h
  obtain ⟨u, hu, rfl⟩ := stepWith_cases h
  have hf : s.fault = .noFault := (agentStep_cases hu).1
  refine ⟨hf, ?_⟩
  obtain hsame | ⟨ha, code, hcode, ⟨w, rest, hp, rfl⟩ | ⟨hp, i, v, hn, rfl⟩⟩ := agentStep_fault_cases hu
  · exact .inl (faultSame_trans hsame (reschedule_blockSame sched u).fault)
  · exact .inr ⟨hcode, ha, ⟨rfl, rfl, rfl, rfl, rfl, rfl, rfl⟩, ⟨rfl, rfl, rfl⟩, rfl, rfl,
      .inl ⟨w, hp, rfl, rfl, rfl, rfl⟩⟩
  · have hv := nextCommand_block hn
    obtain ⟨hdisplay, htone, htoneEn, -⟩ := nextCommand_blockSame hn
    have hresponses : v.responses = s.responses := by rw [hv]
    have hpending : v.pending = [] := by rw [hv, hp]
    have hcounters (hs : HostInv cfg s) : v.hostC = s.hostC ∧ v.hostPh = s.hostPh := nextCommand_counters hs hf hn
    exact .inr ⟨hcode, ha, hdisplay, htone, htoneEn, hresponses, .inr ⟨hp, hpending, i, v, hn, rfl, rfl, hcounters⟩⟩

end Sys2Proof.Machine
end

section
/-! SUPPORT and the settled statements of 70_reset_and_hazards.md: a frame ends under every fair schedule, INIT and TONE_START
in either order, and which agent has a step and which lines are driven right after reset. -/

namespace Sys2Proof.Machine

/-! ## A frame ends under every fair schedule (R335) -/

/-- An unfaulted frame in R38's range, with `left` slot steps to go before its end-of-frame step. -/
structure InFrame (left : Nat) (s : State) : Prop where
  unfaulted : s.fault = .noFault
  active : s.scanActive = true
  slotsLeft : s.scanPos.toNat + left = 8

/-- Some run from `s` ends the frame as R335 says. -/
def FrameEnds (cfg : WfConfig) (sched : Nat → Turn) (s : State) : Prop :=
  ∃ k t, runWith cfg sched k s = .next t ∧ t.scanActive = false ∧ t.fault = .noFault ∧ t.buf = s.buf ∧
    selection t = (none, 0x00) ∧ t.pending = s.pending

section

variable {cfg : WfConfig} {sched : Nat → Turn}

/-- One step more at the front, if it leaves the buffer and the pending words as they are. -/
theorem FrameEnds.of_step {s u : State} (h : stepWith cfg sched s = .next u) (hbuf : u.buf = s.buf)
    (hpending : u.pending = s.pending) (hu : FrameEnds cfg sched u) : FrameEnds cfg sched s := by
  obtain ⟨k, t, hrun, hidle, hfault, hbuf', hsel, hpending'⟩ := hu
  exact ⟨k + 1, t, (runWith_succ h).trans hrun, hidle, hfault, hbuf'.trans hbuf, hsel, hpending'.trans hpending⟩

/-- A tick leaves the frame where it is. -/
theorem FrameEnds.of_tick {left : Nat} {s : State} (hs : InFrame left s) (htone : s.turn = .tone) (he : s.toneEn = true)
    (hnext : InFrame left (reschedule sched (tick cfg s)) → FrameEnds cfg sched (reschedule sched (tick cfg s))) :
    FrameEnds cfg sched s :=
  .of_step (stepWith_of_agentStep (agentStep_tone hs.unfaulted htone he)) rfl rfl
    (hnext ⟨hs.unfaulted, hs.active, hs.slotsLeft⟩)

/-- In a frame, where TONE has no turn to take, the step is SCAN's. -/
theorem stepWith_scan {left : Nat} {s t : State} (hs : InFrame left s) (ht : s.turn = .hostOrScan ∨ s.toneEn = false)
    (hscan : scanStep s = .next t) : stepWith cfg sched s = .next (reschedule sched t) :=
  stepWith_of_agentStep ((agentStep_scan hs.unfaulted hs.active ht).trans hscan)

/-- Until a fair schedule offers SCAN a step, TONE can only tick: so it is enough that the frame ends from each state at the
same slot in which TONE has no turn to take. The induction is on the number of steps to that offer. -/
theorem frameEnds_of_turn (hfair : FairSchedule sched) {left : Nat}
    (hturn : ∀ u, InFrame left u → (u.turn = .hostOrScan ∨ u.toneEn = false) → FrameEnds cfg sched u)
    {s : State} (hs : InFrame left s) : FrameEnds cfg sched s := by
  obtain ⟨m, hm, hoffer⟩ := hfair.2 s.stepNo
  obtain ⟨wait, rfl⟩ := Nat.exists_eq_add_of_le hm
  clear hm
  induction wait generalizing s with
  | zero =>
    obtain ⟨htone, he⟩ | ht := turn_cases s
    · have hnext : (reschedule sched (tick cfg s)).turn = .hostOrScan := (if_pos he).trans hoffer
      exact .of_tick hs htone he fun hs' => hturn _ hs' (.inl hnext)
    · exact hturn s hs ht
  | succ wait ih =>
    obtain ⟨htone, he⟩ | ht := turn_cases s
    · have hnext : sched (s.stepNo + 1 + wait) = .hostOrScan := by rwa [Nat.add_right_comm]
      exact .of_tick hs htone he fun hs' => ih hs' hnext
    · exact hturn s hs ht

/-- Slot by slot: SCAN gets its turn at each one (`frameEnds_of_turn`), and after the last comes the end-of-frame step. -/
theorem frameEnds (hfair : FairSchedule sched) {left : Nat} {s : State} (hs : InFrame left s) :
    FrameEnds cfg sched s := by
  induction left generalizing s with
  | zero =>
    refine frameEnds_of_turn hfair (fun u hu ht => ?_) hs
    exact ⟨1, _, runWith_succ (stepWith_scan hu ht (scanStep_end hu.slotsLeft)), rfl, hu.unfaulted, rfl, rfl, rfl⟩
  | succ left ih =>
    refine frameEnds_of_turn hfair (fun u hu ht => ?_) hs
    have hleft := hu.slotsLeft
    have hslot : u.scanPos.toNat < 8 := by omega
    refine .of_step (stepWith_scan hu ht (scanStep_slot hslot)) rfl rfl (ih ⟨hu.unfaulted, hu.active, ?_⟩)
    rw [reschedule_scanPos, slotStep_scanPos, slotPos_toNat hslot]
    omega

end

/-- Settles O25: a frame at SCAN_POS ≤ 8 has 8 - SCAN_POS slots left (`frameEnds`). -/
theorem fairScheduleEndsEveryFrame : Obligations.FairScheduleEndsEveryFrame :=
  fun _ _ _ hfair hf ha hpos => frameEnds hfair ⟨hf, ha, Nat.add_sub_cancel' hpos⟩

/-! ## INIT and TONE_START in either order (R325) -/

/-- Two commands outside the gate, one after the other, have both effects. -/
theorem execAll_pair_ungated {i j : Instr} (hi : isGated i = false) (hj : isGated j = false) (s : State) :
    execAll [i, j] s = .next (effectOf j (effectOf i s)) := by
  rw [execAll_cons_of_next (exec_ready (.inl hi)), execAll_cons_of_next (exec_ready (.inl hj)), execAll]

/-- INIT neither reads nor writes TONE_EN, which is all that TONE_START writes. -/
theorem effectOf_init_enableTone (s : State) : effectOf .init (enableTone s) = enableTone (effectOf .init s) := rfl

/-- Settles O14: neither command is gated, and their effects commute (`effectOf_init_enableTone`). -/
theorem initAndToneStartCommute : Obligations.InitAndToneStartCommute := fun s =>
  ⟨enableTone (effectOf .init s), execAll_pair_ungated rfl rfl s,
    (execAll_pair_ungated rfl rfl s).trans (congrArg _ (effectOf_init_enableTone s))⟩

/-! ## Right after reset (R321) -/

/-- With OUT_EN = 0 and TONE_EN = 0 no line of any group is driven (R160, R204). -/
theorem level_of_disabled (cfg : WfConfig) (draw : Nat → Nat → Bool) {s : State} (hout : s.outEn = false)
    (htone : s.toneEn = false) (k : Nat) (line : Line) : level cfg draw s k line = .undriven := by
  cases line with
  | a i | b i | x i | y i => rw [level, hout]; rfl
  | audio => rw [level, audioLevel, htone]; rfl

/-- Settles O53: reset has FAULT = 0, SCAN_ACTIVE = 0 and TONE_EN = 0, and OUT_EN = 0 (`level_of_disabled`). -/
theorem onlyHostStepsAfterReset : Obligations.OnlyHostStepsAfterReset :=
  ⟨(hostEnabled_iff State.reset).mpr ⟨rfl, rfl⟩, rfl, rfl, fun cfg draw => level_of_disabled cfg draw rfl rfl⟩

end Sys2Proof.Machine
end
